-- ==== Sys2Proof/Word.lean ====
section
/-! DEFINITION. The word types of the TB checksum core: bytes, 32-bit register words, 16-byte blocks,
32-byte chunks and the eight-block register file (00_scope.md R8, R10, R11; 10_state.md R22, R24). -/

namespace Sys2Proof

/-- R10: a byte is 8 bits, bit 0 least significant, unsigned. -/
abbrev Byte := BitVec 8

/-- R61, R69: every register word is 32 bits. -/
abbrev Word := BitVec 32

/-- R11: a block is a sequence of 16 bytes `B[0] … B[15]`; no rule gives it an integer value. -/
abbrev Block := Vector Byte 16

/-- R24: one chunk is 32 bytes, or two blocks. -/
abbrev Chunk := Vector Byte 32

/-- R22: the state register file is eight blocks `S[0] … S[7]`. -/
abbrev Blocks := Vector Block 8

/-- R11: `Z` is the all-zero block. -/
def zeroBlock : Block := Vector.replicate 16 0

end Sys2Proof
end

