-- ==== Sys2Proof/Syntax.lean ====
section
/-! DEFINITION. The seven commands of command set CSUM-CMD version 1 (00_scope.md R3, 30_encoding.md R93),
one constructor for each row of spec/opcode_table.json. -/

namespace Sys2Proof

/-- A command. The data operands are implicit registers (R92), so only ABSORB carries a field. -/
inductive Instr where
  /-- NOP (43_control.md R222). -/
  | nop
  /-- INIT (42_checksum.md R173). -/
  | init
  /-- ABSORB n (42_checksum.md R178); `n` is the 6-bit LEN field, an unsigned count of bytes (R92). -/
  | absorb (n : BitVec 6)
  /-- FINALIZE (42_checksum.md R180). -/
  | finalize
  /-- UPDATE (41_state_update.md R153). -/
  | update
  /-- ROUND (40_round_function.md R130). -/
  | round
  /-- CLEAR (43_control.md R223). -/
  | clear
  deriving DecidableEq, Repr

end Sys2Proof
end

