-- ==== Sys2Proof/Machine/State.lean ====
section
/-! DEFINITION. The state of the core (10_state.md R21 to R37), the inputs that have yet to reach it, the
reasons a step can stop, and the state after reset (10_state.md R46, 70_reset_and_hazards.md R280). -/

namespace Sys2Proof.Machine

/-- R28: the construction's four states, in the PHASE register's order 0 to 3. -/
inductive Phase where
  | uninit
  | initialized
  | absorbing
  | finalized
  deriving DecidableEq, Repr

/-- What the outside world and the scheduler do next. R20 and R78: a run is one interleaving of host access
steps and engine completion steps; the host's accesses come in its program order (notes/assumptions/1.md).
Offsets count from `BASE` (R14) and are negative below the window; widths are in bytes. -/
inductive Event where
  /-- The host reads `width` bytes at `BASE + off`. -/
  | read (off : Int) (width : Nat)
  /-- The host writes `v` at `BASE + off`; only a 4-byte write is admitted (R69), so `v` is a word. -/
  | write (off : Int) (width : Nat) (v : Word)
  /-- The engine is scheduled (R20, R221). -/
  | engine
  /-- The platform applies reset (70_reset_and_hazards.md R280). -/
  | reset
  deriving DecidableEq, Repr

/-- The state. The fields down to `pending` are R21's tuple; the last three are the model's own. -/
structure State where
  /-- R22: the state register file. -/
  S : Blocks
  /-- R24: the data-in register. -/
  din : Chunk
  /-- R25: the tag register. -/
  tag : Block
  /-- R26: the round-output register. -/
  rndout : Block
  /-- R27: the associated-data bit counter, a 64-bit unsigned integer. -/
  adbits : BitVec 64
  /-- R28. -/
  phase : Phase
  /-- R29: a chunk shorter than 32 bytes has been absorbed since the last INIT. -/
  tail : Bool
  /-- R30: the state was changed by something other than the construction since the last INIT. -/
  raw : Bool
  /-- R31. -/
  tagValid : Bool
  /-- R32: a command has been accepted and has not completed. -/
  busy : Bool
  /-- R33: the most recently accepted command has completed (sticky). -/
  done : Bool
  /-- R34: an error is recorded (sticky). -/
  err : Bool
  /-- R34, R242: the first error's code. -/
  errcode : BitVec 3
  /-- R35: the interrupt enable, CTRL bit 0. -/
  ie : Bool
  /-- R37: the command accepted while BUSY = 1, its opcode and LEN as the decoder gave them; meaningless
  while BUSY = 0. -/
  pending : Instr
  /-- The model's own: what happens next, first event first (notes/assumptions/1.md). -/
  agenda : List Event
  /-- The model's own: what the host's reads returned, newest first, with their offsets. -/
  replies : List (Nat × Word)
  /-- The model's own: how many unspecified reads have been drawn (notes/assumptions/3.md). -/
  draws : Nat
  deriving DecidableEq, Repr

/-- R240: the core takes no traps and no computation of it fails, so no step ends in a fault: this type has
no constructor. -/
inductive Fault where
  deriving DecidableEq, Repr

/-- Why a step has no meaning in the model. -/
inductive Refusal where
  /-- The instruction has no meaning in this model yet. Raised by no arm of this model; safe. -/
  | notModelled (mnemonic : String)
  /-- R70: an access that is not 32 bits wide; raised by the host's access, never by a command. What the bus
  does with it is the open parameter SUBWORD_ACCESS. Safe: the run has no further state. -/
  | badWidth
  /-- R70: an access outside the 0x1000-byte window, which reaches no register of the core. Safe. -/
  | outsideWindow
  /-- R70: a 32-bit access to an offset that is not a multiple of 4. Safe. -/
  | misaligned
  deriving DecidableEq, Repr

/-- R46, R280: the state after reset. `pending` has no reset value in R46 and is meaningless while BUSY = 0
(DESIGN CHOICE, notes/assumptions/2.md); the model's own fields start empty (notes/assumptions/1.md). -/
def State.reset : State where
  S := Vector.replicate 8 zeroBlock
  din := Vector.replicate 32 0
  tag := zeroBlock
  rndout := zeroBlock
  adbits := 0
  phase := .uninit
  tail := false
  raw := false
  tagValid := false
  busy := false
  done := false
  err := false
  errcode := 0
  ie := false
  pending := .nop
  agenda := []
  replies := []
  draws := 0

end Sys2Proof.Machine
end

