-- ==== Sys2Proof/Machine/Flags.lean ====
section
/-! DEFINITION. The status and control registers as words, the error codes, the interrupt line, and what
acceptance and completion do to the flags (10_state.md R28, R32 to R35, R39, R42, R43; 60_exceptions.md R242,
R250; 43_control.md R220, R221). -/

namespace Sys2Proof.Machine

/-- The errors the core raises (R242); codes 5 and 6 are reserved, and 7 (INTERNAL) is never raised by a
conforming core (R253). -/
inductive ErrorCode where
  | illegalCmd
  | sequence
  | busyWrite
  | lenOverflow
  deriving DecidableEq, Repr

/-- R242: the ERRCODE value of an error. -/
def ErrorCode.code : ErrorCode → BitVec 3
  | .illegalCmd => 1
  | .sequence => 2
  | .busyWrite => 3
  | .lenOverflow => 4

/-- R28: the PHASE field's two bits. -/
def Phase.code : Phase → BitVec 2
  | .uninit => 0
  | .initialized => 1
  | .absorbing => 2
  | .finalized => 3

/-- A flag as a word with bit 0 set or clear. -/
def flagBit (b : Bool) : Word := if b then 1 else 0

/-- R42: what a STATUS read returns. -/
def statusWord (s : State) : Word :=
  flagBit s.busy ||| flagBit s.done <<< 1 ||| flagBit s.err <<< 2 ||| s.phase.code.setWidth 32 <<< 4 |||
    flagBit s.tail <<< 6 ||| flagBit s.raw <<< 7 ||| s.errcode.setWidth 32 <<< 8 |||
    flagBit s.tagValid <<< 11

/-- R43: what a CTRL read returns. -/
def ctrlWord (s : State) : Word := flagBit s.ie

/-- R36: what an ID read returns. -/
def idWord : Word := 0x314D5343

/-- R39, R250: the level-sensitive interrupt line. -/
def irq (s : State) : Bool := s.ie && (s.done || s.err)

/-- R220: an accepted command is recorded, and BUSY and DONE change. -/
def beginCommand (i : Instr) (s : State) : State :=
  { s with pending := i, busy := true, done := false }

/-- R221: every completion ends with `BUSY <- 0; DONE <- 1`. -/
def finish (s : State) : State := { s with busy := false, done := true }

/-- R28, R220: the phases in which the construction goes on, INITIALIZED and ABSORBING. -/
def Phase.isOpen : Phase → Bool
  | .uninit => false
  | .initialized => true
  | .absorbing => true
  | .finalized => false

end Sys2Proof.Machine
end

