-- ==== Sys2Proof/Config.lean ====
section
/-! DEFINITION. What the spec leaves to the platform or leaves open: the base address of the register
window, and the values that reads return while a command is pending (00_scope.md R9, 20_memory.md R77). -/

namespace Sys2Proof.Config

/-- R9, R60, R84: `BASE` is an open parameter, a multiple of 0x1000; this is `BASE / 0x1000`. It has no
body, so no proof can depend on its value. -/
opaque basePage : Nat

/-- R9: the byte address of the register window in the host's address space. -/
def base : Nat := 0x1000 * basePage

/-- R14: the host address of the register word at byte offset `off`. -/
def hostAddress (off : Nat) : Nat := base + off

/-- R14 read backwards: the offset of a host address from `BASE`; negative below the window. -/
def offsetOf (addr : Nat) : Int := (addr : Int) - (base : Int)

/-- R77: what the k-th read of a STATE, TAG, RNDOUT or ADBITS word while BUSY = 1 returns. The spec says
such a read returns an unspecified value, drawn freely for each read, so the function has no body
(notes/assumptions/3.md). `State.draws` supplies k. -/
opaque freeRead : Nat → Word

end Sys2Proof.Config
end

