-- ==== Sys2Proof/Machine/Operands.lean ====
section
/-! DEFINITION. Operand forms: packing bytes into register words (20_memory.md R62 to R65), the register map
(R61), which accesses are admitted (R69, R70), and the blocks and the padded chunk that the commands take
from DIN (10_state.md R24, 42_checksum.md R174). -/

namespace Sys2Proof.Machine

/-- R62: byte k of a word, k = 0 the least significant. -/
def wordByte (v : Word) (k : Nat) : Byte := v.extractLsb' (8 * k) 8

/-- R62: four bytes as a little-endian word: `b0 | b1<<8 | b2<<16 | b3<<24`. -/
def packWord (b0 b1 b2 b3 : Byte) : Word :=
  b0.setWidth 32 ||| b1.setWidth 32 <<< 8 ||| b2.setWidth 32 <<< 16 ||| b3.setWidth 32 <<< 24

/-- R62 to R64: word w of a byte-array register. -/
def getWord {n : Nat} (B : Vector Byte n) (w : Nat) (h : 4 * w + 3 < n) : Word :=
  packWord B[4 * w] B[4 * w + 1] B[4 * w + 2] B[4 * w + 3]

/-- R73: the byte array after word w is written: byte 4w+k takes `v[8k+7:8k]`, the others stay. -/
def setWord {n : Nat} (B : Vector Byte n) (w : Nat) (v : Word) : Vector Byte n :=
  Vector.ofFn fun j => if j.val / 4 = w then wordByte v (j.val % 4) else B[j]

/-- R24: bytes 0..15 of a chunk: `M0view` of DIN, and M0 of an absorbed chunk (R174). -/
def firstBlock (d : Chunk) : Block := Vector.ofFn fun j => d[j.val]

/-- R24: bytes 16..31 of a chunk: `M1view` of DIN, and M1 of an absorbed chunk (R174). -/
def secondBlock (d : Chunk) : Block := Vector.ofFn fun j => d[16 + j.val]

/-- R174, R178: the first n bytes of DIN, zero-padded on the right to a full chunk. -/
def padChunk (d : Chunk) (n : Nat) : Chunk := Vector.ofFn fun j => if j.val < n then d[j] else 0

/-- The registers of the window, by name (R61). -/
inductive Reg where
  | id
  | ctrl
  | cmd
  | status
  | adbitsLo
  | adbitsHi
  /-- DIN0 to DIN7. -/
  | din (w : Fin 8)
  /-- TAG0 to TAG3. -/
  | tag (w : Fin 4)
  /-- RNDOUT0 to RNDOUT3. -/
  | rndout (w : Fin 4)
  /-- STATE_b_w. -/
  | state (b : Fin 8) (w : Fin 4)
  /-- The reserved offsets of R74. -/
  | reserved
  deriving DecidableEq, Repr

/-- R61: the register at an offset of the window, for the offsets R69 admits. -/
def regAt (off : Nat) : Reg :=
  if off = 0x000 then .id
  else if off = 0x004 then .ctrl
  else if off = 0x008 then .cmd
  else if off = 0x00C then .status
  else if off = 0x010 then .adbitsLo
  else if off = 0x014 then .adbitsHi
  else if 0x020 ≤ off ∧ off < 0x040 then .din (Fin.ofNat 8 ((off - 0x020) / 4))
  else if 0x040 ≤ off ∧ off < 0x050 then .tag (Fin.ofNat 4 ((off - 0x040) / 4))
  else if 0x050 ≤ off ∧ off < 0x060 then .rndout (Fin.ofNat 4 ((off - 0x050) / 4))
  else if 0x100 ≤ off ∧ off < 0x180 then
    .state (Fin.ofNat 8 ((off - 0x100) / 16)) (Fin.ofNat 4 ((off - 0x100) % 16 / 4))
  else .reserved

/-- R61: a register's offset; none for the reserved offsets, which are many. -/
def Reg.offset : Reg → Option Nat
  | .id => some 0x000
  | .ctrl => some 0x004
  | .cmd => some 0x008
  | .status => some 0x00C
  | .adbitsLo => some 0x010
  | .adbitsHi => some 0x014
  | .din w => some (0x020 + 4 * w.val)
  | .tag w => some (0x040 + 4 * w.val)
  | .rndout w => some (0x050 + 4 * w.val)
  | .state b w => some (0x100 + 16 * b.val + 4 * w.val)
  | .reserved => none

/-- R77: the registers that return an unspecified value while BUSY = 1. -/
def Reg.openWhileBusy : Reg → Bool
  | .adbitsLo => true
  | .adbitsHi => true
  | .tag _ => true
  | .rndout _ => true
  | .state _ _ => true
  | .id => false
  | .ctrl => false
  | .cmd => false
  | .status => false
  | .din _ => false
  | .reserved => false

/-- R60: the size of the window in bytes. -/
def windowSize : Nat := 0x1000

/-- R69, R70: the only admitted access is a 32-bit access to an offset of the window that is a multiple
of 4; any other is refused, with the reason named. -/
def checkAccess (off : Int) (width : Nat) : Except Refusal Nat :=
  if width ≠ 4 then .error .badWidth
  else if off < 0 ∨ (windowSize : Int) ≤ off then .error .outsideWindow
  else if off.toNat % 4 ≠ 0 then .error .misaligned
  else .ok off.toNat

/-- R14: a host read of `width` bytes at a host address, as the event that reaches the window. -/
def readAt (addr width : Nat) : Event := .read (Config.offsetOf addr) width

/-- R14: a host write of `width` bytes at a host address, as the event that reaches the window. -/
def writeAt (addr width : Nat) (v : Word) : Event := .write (Config.offsetOf addr) width v

end Sys2Proof.Machine
end

