-- ==== Sys2Proof/Machine/Update.lean ====
section
/-! DEFINITION. Layer 2, the State Update, and the completion of UPDATE (41_state_update.md R150 to R153). -/

namespace Sys2Proof.Machine

/-- R150, R151: `Update(S, M0, M1)`: each new block is the round of the block before it, keyed by the old
block at the same index, with M0 in the key of block 0 and M1 in the key of block 4. Every right-hand side
reads the blocks from before the update. -/
@[irreducible] def stateUpdate (S : Blocks) (M0 M1 : Block) : Blocks :=
  #v[aesRound S[7] (xorBlock S[0] M0),
    aesRound S[0] S[1],
    aesRound S[1] S[2],
    aesRound S[2] S[3],
    aesRound S[3] (xorBlock S[4] M1),
    aesRound S[4] S[5],
    aesRound S[5] S[6],
    aesRound S[6] S[7]]

/-- R13: `repeat n: S <- Update(S, M0, M1)`. -/
def repeatUpdate : Nat → Block → Block → Blocks → Blocks
  | 0, _, _, S => S
  | n + 1, M0, M1, S => repeatUpdate n M0 M1 (stateUpdate S M0 M1)

/-- R153: the completion of UPDATE: one State Update with DIN's two blocks; RAW becomes 1. -/
def execUpdate (s : State) : Host.Outcome State Fault Refusal :=
  .next (finish { s with S := stateUpdate s.S (firstBlock s.din) (secondBlock s.din), raw := true })

end Sys2Proof.Machine
end

