-- ==== Sys2Proof/Machine/Checksum.lean ====
section
/-! DEFINITION. Layer 3, the checksum construction: its constants, initialisation, padding, length block,
finalisation and tag, the completions of INIT, ABSORB and FINALIZE, and the pure checksum function
(42_checksum.md R170 to R182). -/

namespace Sys2Proof.Machine

/-- R170: the block constant C0. -/
def constC0 : Block :=
  #v[0x00, 0x01, 0x01, 0x02, 0x03, 0x05, 0x08, 0x0d, 0x15, 0x22, 0x37, 0x59, 0x90, 0xe9, 0x79, 0x62]

/-- R170: the block constant C1. -/
def constC1 : Block :=
  #v[0xdb, 0x3d, 0x18, 0x55, 0x6d, 0xc2, 0x2f, 0xf1, 0x20, 0x11, 0x31, 0x42, 0x73, 0xb5, 0x28, 0xdd]

/-- R171: the initial layout with key and nonce zero. -/
def initLayout : Blocks :=
  #v[zeroBlock, constC1, constC0, constC1, zeroBlock, constC0, constC1, constC0]

/-- R172: `Init()`, ten updates of the initial layout with zero blocks injected. -/
def initState : Blocks := repeatUpdate 10 zeroBlock zeroBlock initLayout

/-- R12, R175: the length block `LE64(adbits) ++ LE64(msgbits)`. -/
def lengthBlock (adbits msgbits : BitVec 64) : Block :=
  Vector.ofFn fun j =>
    if j.val < 8 then adbits.extractLsb' (8 * j.val) 8 else msgbits.extractLsb' (8 * (j.val - 8)) 8

/-- R177: `t = S[2] ⊕ L(adbits, 0)`; S[2] itself is not modified. -/
def finalBlock (S : Blocks) (adbits : BitVec 64) : Block := xorBlock S[2] (lengthBlock adbits 0)

/-- R177: `Finalize(S, adbits)`: seven updates with the same t, computed once, as both injected blocks. -/
def finalizeBlocks (S : Blocks) (adbits : BitVec 64) : Blocks :=
  repeatUpdate 7 (finalBlock S adbits) (finalBlock S adbits) S

/-- R179: `Tag(S) = S[0] ⊕ … ⊕ S[6]`; S[7] is not included. -/
def tagOf (S : Blocks) : Block :=
  xorBlock (xorBlock (xorBlock (xorBlock (xorBlock (xorBlock S[0] S[1]) S[2]) S[3]) S[4]) S[5]) S[6]

/-- R174, R178: one absorption: the padded chunk's two blocks injected by one Update. -/
def absorbChunk (S : Blocks) (c : Chunk) : Blocks := stateUpdate S (firstBlock c) (secondBlock c)

/-- R173: the completion of INIT. -/
def execInit (s : State) : Host.Outcome State Fault Refusal :=
  .next (finish { s with
    S := initState, adbits := 0, phase := .initialized, tail := false, raw := false,
    tag := zeroBlock, tagValid := false })

/-- R178: the completion of ABSORB n. The sum cannot overflow, because acceptance checked it (R176;
notes/assumptions/5.md). -/
def execAbsorb (n : BitVec 6) (s : State) : Host.Outcome State Fault Refusal :=
  .next (finish { s with
    S := absorbChunk s.S (padChunk s.din n.toNat),
    adbits := s.adbits + BitVec.ofNat 64 (8 * n.toNat),
    phase := .absorbing,
    tail := decide (n.toNat < 32) })

/-- R180: the completion of FINALIZE. -/
def execFinalize (s : State) : Host.Outcome State Fault Refusal :=
  .next (finish { s with
    S := finalizeBlocks s.S s.adbits,
    tag := tagOf (finalizeBlocks s.S s.adbits),
    tagValid := true, phase := .finalized, tail := false })

/-- R174: the number of chunks of an input, `⌈ℓ / 32⌉`. -/
def chunkCount (b : List Byte) : Nat := (b.length + 31) / 32

/-- R174: chunk i of an input, zero-padded on the right. -/
def chunkOf (b : List Byte) (i : Nat) : Chunk := Vector.ofFn fun j => b.getD (32 * i + j.val) 0

/-- R182: the state after `Init()` and the absorption of every chunk. -/
def absorbAll (b : List Byte) : Blocks :=
  (List.range (chunkCount b)).foldl (fun S i => absorbChunk S (chunkOf b i)) initState

/-- R182: `Checksum(b)`, for inputs of at most 2^61 − 1 bytes. -/
def checksum (b : List Byte) : Block :=
  tagOf (finalizeBlocks (absorbAll b) (BitVec.ofNat 64 (8 * b.length)))

end Sys2Proof.Machine
end

