-- ==== Sys2Proof/Machine/Control.lean ====
section
/-! DEFINITION. The completions of the two control commands, NOP and CLEAR (43_control.md R222, R223). -/

namespace Sys2Proof.Machine

/-- R222: NOP does nothing except complete. -/
def execNop (s : State) : Host.Outcome State Fault Refusal := .next (finish s)

/-- R223: CLEAR returns every field to its reset value except IE, and completes. -/
def execClear (s : State) : Host.Outcome State Fault Refusal :=
  .next (finish { s with
    S := Vector.replicate 8 zeroBlock, din := Vector.replicate 32 0,
    tag := zeroBlock, rndout := zeroBlock, adbits := 0,
    phase := .uninit, tail := false, raw := false, tagValid := false,
    err := false, errcode := 0 })

end Sys2Proof.Machine
end

