-- ==== Sys2Proof/Machine/Dispatch.lean ====
section
/-! DEFINITION. The engine's step on one command: its completion (43_control.md R221), one arm for each
command of the opcode table. -/

namespace Sys2Proof.Machine

/-- R221: the completion of the pending command, as one atomic state change; each arm's meaning cites the rule
that gives its pseudocode. -/
def exec (i : Instr) (s : State) : Host.Outcome State Fault Refusal :=
  match i with
  | .nop => Sys2Proof.Machine.execNop s
  | .init => Sys2Proof.Machine.execInit s
  | .absorb n => Sys2Proof.Machine.execAbsorb n s
  | .finalize => Sys2Proof.Machine.execFinalize s
  | .update => Sys2Proof.Machine.execUpdate s
  | .round => Sys2Proof.Machine.execRound s
  | .clear => Sys2Proof.Machine.execClear s

end Sys2Proof.Machine
end

