-- ==== Sys2Proof/WellFormed.lean ====
section
/-! DEFINITION. Which terms of `Instr` are commands of the core: ABSORB takes 1 to 32 bytes
(30_encoding.md R92, R95, R96). -/

namespace Sys2Proof

/-- R92, R95, R96: ABSORB takes `1 ≤ n ≤ 32`; every other command has no operand to check. -/
def Instr.wellFormed : Instr → Bool
  | .nop => true
  | .init => true
  | .absorb n => decide (1 ≤ n.toNat) && decide (n.toNat ≤ 32)
  | .finalize => true
  | .update => true
  | .round => true
  | .clear => true

/-- The same check as a proposition. -/
abbrev Instr.WellFormed (i : Instr) : Prop := i.wellFormed = true

end Sys2Proof
end

