-- ==== Sys2Proof/Decode.lean ====
section
/-! DEFINITION. The command word: its fields, its decoder (total over all 2^32 words, rejecting by name),
its encoder and the opcode table as rows of mask and pattern (30_encoding.md R90 to R97). -/

namespace Sys2Proof

/-- R91: OP, bits 3:0. -/
def opField (v : Word) : BitVec 4 := v.extractLsb' 0 4

/-- R91: RSV0, bits 7:4, must be zero. -/
def rsv0Field (v : Word) : BitVec 4 := v.extractLsb' 4 4

/-- R91: LEN, bits 13:8. -/
def lenField (v : Word) : BitVec 6 := v.extractLsb' 8 6

/-- R91: RSV1, bits 31:14, must be zero. -/
def rsv1Field (v : Word) : BitVec 18 := v.extractLsb' 14 18

/-- Why a word is illegal (R95; the names are those of 95_test_vectors.md section 2.12). -/
inductive Illegal where
  /-- A nonzero RSV0 or RSV1 bit. -/
  | reservedBit
  /-- OP 0x7 to 0xF. -/
  | opcode
  /-- ABSORB with LEN 0 or above 32, or another opcode with LEN ≠ 0. -/
  | len
  deriving DecidableEq, Repr

/-- The result of R94's `decode`: `Cmd(op, len)` or `Illegal`. -/
inductive Decoded where
  | cmd (i : Instr)
  | illegal (why : Illegal)
  deriving DecidableEq, Repr

/-- R93: the command of an opcode and its LEN field, once R94's checks have passed. -/
def commandOf (op : BitVec 4) (len : BitVec 6) : Decoded :=
  match op.toNat with
  | 0 => .cmd .nop
  | 1 => .cmd .init
  | 2 => .cmd (.absorb len)
  | 3 => .cmd .finalize
  | 4 => .cmd .update
  | 5 => .cmd .round
  | 6 => .cmd .clear
  | _ => .illegal .opcode

/-- R94: decoding a word, with the checks in the order the spec gives. -/
def decode (v : Word) : Decoded :=
  if rsv0Field v ≠ 0 ∨ rsv1Field v ≠ 0 then .illegal .reservedBit
  else if 7 ≤ (opField v).toNat then .illegal .opcode
  else if (opField v).toNat = 2 ∧ ((lenField v).toNat = 0 ∨ 32 < (lenField v).toNat) then .illegal .len
  else if (opField v).toNat ≠ 2 ∧ (lenField v).toNat ≠ 0 then .illegal .len
  else commandOf (opField v) (lenField v)

/-- The command a word decodes to, if it is legal. -/
def Decoded.toOption : Decoded → Option Instr
  | .cmd i => some i
  | .illegal _ => none

/-- R93: the opcode of a command. -/
def opcodeOf : Instr → BitVec 4
  | .nop => 0x0
  | .init => 0x1
  | .absorb _ => 0x2
  | .finalize => 0x3
  | .update => 0x4
  | .round => 0x5
  | .clear => 0x6

/-- R92, R93: the LEN field of a command; zero for all but ABSORB. -/
def lenOf : Instr → BitVec 6
  | .nop => 0
  | .init => 0
  | .absorb n => n
  | .finalize => 0
  | .update => 0
  | .round => 0
  | .clear => 0

/-- R91: the word of a command, its four fields from the most significant down: RSV1, LEN, RSV0, OP. -/
def encode (i : Instr) : Word :=
  (0 : BitVec 18) ++ lenOf i ++ (0 : BitVec 4) ++ opcodeOf i

/-- One row of R93's table. -/
structure OpRow where
  mnemonic : String
  /-- The fixed bits' values. -/
  pattern : Word
  /-- Which bits are fixed. -/
  mask : Word
  /-- Whether LEN is an operand (ABSORB), which must then lie in 1..32. -/
  takesLen : Bool
  deriving DecidableEq, Repr

/-- R93: the opcode table. -/
def opcodeTable : List OpRow :=
  [⟨"NOP", 0x00000000, 0xFFFFFFFF, false⟩,
   ⟨"INIT", 0x00000001, 0xFFFFFFFF, false⟩,
   ⟨"ABSORB_n", 0x00000002, 0xFFFFC0FF, true⟩,
   ⟨"FINALIZE", 0x00000003, 0xFFFFFFFF, false⟩,
   ⟨"UPDATE", 0x00000004, 0xFFFFFFFF, false⟩,
   ⟨"ROUND", 0x00000005, 0xFFFFFFFF, false⟩,
   ⟨"CLEAR", 0x00000006, 0xFFFFFFFF, false⟩]

/-- R93: a word matches a row when its fixed bits agree and, for ABSORB, `1 ≤ v[13:8] ≤ 32`. -/
def OpRow.accepts (r : OpRow) (v : Word) : Bool :=
  v &&& r.mask == r.pattern &&
    (!r.takesLen || (decide (1 ≤ (lenField v).toNat) && decide ((lenField v).toNat ≤ 32)))

/-- R93: a word is a legal command when it matches a row. -/
def legalWord (v : Word) : Bool := opcodeTable.any fun r => r.accepts v

/-- The 32-bit word whose low `nbits` bits are `w`'s and whose other bits are zero; none where `w` has a
bit beyond the one word that a command is (R90, R97). -/
def tableWord (nbits w : Nat) : Option Word :=
  let x := w % 2 ^ nbits
  if x < 2 ^ 32 then some (BitVec.ofNat 32 x) else none

/-- The command the decoder reads from a word numbered as spec/opcode_table.json numbers it. -/
def decodeTableWord (nbits w : Nat) : Option Instr :=
  match tableWord nbits w with
  | some v => (decode v).toOption
  | none => none

end Sys2Proof
end

