-- ==== Sys2Proof/Machine/Ops.lean ====
section
/-! DEFINITION. The shared operations: recording and clearing an error (60_exceptions.md R241, R247), reading
and writing the register window (20_memory.md R72 to R77), accepting a command (43_control.md R220) and
reset (70_reset_and_hazards.md R280). -/

namespace Sys2Proof.Machine

/-- R241: `raise Error(code)`. This is the core's only reaction to misuse (R240: it takes no traps): the
first code since the last clear is kept, and nothing else changes. -/
def raiseError (e : ErrorCode) (s : State) : State :=
  { s with err := true, errcode := if s.err then s.errcode else e.code }

/-- R247: clearing ERR and ERRCODE, the only "return" from an error. -/
def clearError (s : State) : State := { s with err := false, errcode := 0 }

/-- R280, R46: every field of R21 takes its reset value and a pending command is abandoned. The inputs
still to come, the replies already given and the count of draws are the model's own and stay. -/
def resetCore (s : State) : State :=
  { State.reset with agenda := s.agenda, replies := s.replies, draws := s.draws }

/-- R61 to R65, R74, R75: the word a register holds. CMD and reserved offsets read 0. -/
def readReg (r : Reg) (s : State) : Word :=
  match r with
  | .id => idWord
  | .ctrl => ctrlWord s
  | .cmd => 0
  | .status => statusWord s
  | .adbitsLo => s.adbits.extractLsb' 0 32
  | .adbitsHi => s.adbits.extractLsb' 32 32
  | .din w => getWord s.din w.val (by omega)
  | .tag w => getWord s.tag w.val (by omega)
  | .rndout w => getWord s.rndout w.val (by omega)
  | .state b w => getWord s.S[b] w.val (by omega)
  | .reserved => 0

/-- R72, R77: a host read at an admitted offset. It changes no register; it appends what was read to the
replies. While BUSY = 1 a STATE, TAG, RNDOUT or ADBITS word returns a free value, a new one each time. -/
def hostRead (off : Nat) (s : State) : State :=
  if s.busy && (regAt off).openWhileBusy then
    { s with replies := (off, Config.freeRead s.draws) :: s.replies, draws := s.draws + 1 }
  else { s with replies := (off, readReg (regAt off) s) :: s.replies }

/-- R220, checks 3 and 4: why a decoded command is turned away in the current state, if it is. -/
def acceptanceError (i : Instr) (s : State) : Option ErrorCode :=
  match i with
  | .nop => none
  | .init => none
  | .absorb n =>
    if s.phase.isOpen = true ∧ s.tail = false then
      if s.adbits.toNat + 8 * n.toNat > 2 ^ 64 - 1 then some .lenOverflow else none
    else some .sequence
  | .finalize => if s.phase.isOpen = true then none else some .sequence
  | .update => none
  | .round => none
  | .clear => none

/-- R220: `accept_command(v)`, its checks in the order the spec gives. A refused write records its error and
does nothing else; an accepted one changes PENDING, BUSY and DONE only. -/
def acceptCommand (v : Word) (s : State) : State :=
  if s.busy then raiseError .busyWrite s
  else
    match decode v with
    | .illegal _ => raiseError .illegalCmd s
    | .cmd i =>
      match acceptanceError i s with
      | some e => raiseError e s
      | none => beginCommand i s

/-- R73: a STATUS write clears DONE on bit 1 and ERR with ERRCODE on bit 2; a 0 in a bit has no effect. -/
def writeStatus (v : Word) (s : State) : State :=
  let s := if v.getLsbD 1 then { s with done := false } else s
  if v.getLsbD 2 then clearError s else s

/-- R73: a DIN word write, dropped with BUSY_WRITE while BUSY = 1. -/
def writeDin (w : Fin 8) (v : Word) (s : State) : State :=
  if s.busy then raiseError .busyWrite s else { s with din := setWord s.din w.val v }

/-- R73: a STATE word write, dropped with BUSY_WRITE while BUSY = 1; an accepted one sets RAW. -/
def writeState (b : Fin 8) (w : Fin 4) (v : Word) (s : State) : State :=
  if s.busy then raiseError .busyWrite s
  else { s with S := s.S.set b.val (setWord s.S[b] w.val v), raw := true }

/-- R73, R74: `MemWrite` by register. Read-only words and reserved offsets ignore it, without an error. -/
def writeReg (r : Reg) (v : Word) (s : State) : State :=
  match r with
  | .id => s
  | .ctrl => { s with ie := v.getLsbD 0 }
  | .cmd => acceptCommand v s
  | .status => writeStatus v s
  | .adbitsLo => s
  | .adbitsHi => s
  | .din w => writeDin w v s
  | .tag _ => s
  | .rndout _ => s
  | .state b w => writeState b w v s
  | .reserved => s

/-- R73: a host write at an admitted offset. -/
def hostWrite (off : Nat) (v : Word) (s : State) : State := writeReg (regAt off) v s

end Sys2Proof.Machine
end

