-- ==== Sys2Proof/Machine/Turn.lean ====
section
/-! DEFINITION. The turn of each agent: the host's access, the engine's completion, reset, and the run's end
(10_state.md R20; 20_memory.md R70, R71, R78; 43_control.md R221; 70_reset_and_hazards.md R280, R290, R293). -/

namespace Sys2Proof.Machine

/-- R20, R221: while BUSY = 1 the engine has exactly one step, the completion of the pending command. With
BUSY = 0 it has none, so a turn given to it passes and nothing changes. -/
def engineTurn (s : State) : Host.Outcome State Fault Refusal :=
  if s.busy then exec s.pending s else .next s

/-- R20, R71, R280: one event, atomically. An access that is not admitted is refused (R70). -/
def turn (e : Event) (s : State) : Host.Outcome State Fault Refusal :=
  match e with
  | .read off width =>
    match checkAccess off width with
    | .ok o => .next (hostRead o s)
    | .error r => .refused r
  | .write off width v =>
    match checkAccess off width with
    | .ok o => .next (hostWrite o v s)
    | .error r => .refused r
  | .engine => engineTurn s
  | .reset => .next (resetCore s)

/-- R290, R293: with no input left, a pending command still completes; then the run has ended and the
registers keep their values (notes/assumptions/4.md). -/
def quietTurn (s : State) : Host.Outcome State Fault Refusal := engineTurn s

/-- The state in which the very next step is the completion of the command `w` encodes: what R220's
acceptance of that word leaves, with the engine scheduled next. A word that is no command cannot be pending:
the host's CMD write of it comes next, which R94 refuses (notes/assumptions/6.md). -/
def placeWord (nbits w : Nat) (s : State) : State :=
  match decodeTableWord nbits w with
  | some i => beginCommand i { s with agenda := .engine :: s.agenda }
  | none => { s with agenda := .write 0x008 4 (BitVec.ofNat 32 (w % 2 ^ nbits)) :: s.agenda }

end Sys2Proof.Machine
end

