-- ==== Sys2Proof/Machine/Step.lean ====
section
/-! DEFINITION. One step of the machine: the first event of the agenda, or the quiet turn when none is left
(20_memory.md R78). -/

namespace Sys2Proof.Machine

/-- R20, R78: one step of the one interleaving of host accesses and engine completions. -/
def step (s : State) : Host.Outcome State Fault Refusal :=
  match s.agenda with
  | [] => quietTurn s
  | e :: rest => turn e { s with agenda := rest }

/-- The state whose very next step runs the command encoded by `w` (see `placeWord`). -/
def State.withFetchWord (s : State) (nbits w : Nat) : State := placeWord nbits w s

end Sys2Proof.Machine
end

