-- ==== Sys2Proof/Machine/Script.lean ====
section
/-! DEFINITION. The host's side as far as the spec gives it: the assembler syntax of the commands, host
scripts with their pseudo-instructions, a host that runs a script beside the engine, and the driver's
sequence for one checksum (30_encoding.md R98 to R100; 70_reset_and_hazards.md R284). -/

namespace Sys2Proof.Machine

/-! The assembler (R98). -/

/-- The value of a decimal or hexadecimal digit, letters in upper case. -/
def digitValue (c : Char) : Option Nat :=
  if '0'.toNat ≤ c.toNat ∧ c.toNat ≤ '9'.toNat then some (c.toNat - '0'.toNat)
  else if 'A'.toNat ≤ c.toNat ∧ c.toNat ≤ 'F'.toNat then some (c.toNat - 'A'.toNat + 10)
  else none

/-- One more digit of a number in the given base, the number so far in `acc`. -/
def readDigit (radix : Nat) (acc : Option Nat) (c : Char) : Option Nat :=
  match acc, digitValue c with
  | some n, some d => if d < radix then some (radix * n + d) else none
  | _, _ => none

/-- R98: a decimal integer, or a hexadecimal one after `0X`; the letters are already in upper case. (The spec makes
only the mnemonics case-insensitive; that the prefix and the digits are too is a DESIGN CHOICE,
notes/assumptions/12.md.) -/
def parseNumber : List Char → Option Nat
  | [] => none
  | '0' :: 'X' :: [] => none
  | '0' :: 'X' :: ds => ds.foldl (readDigit 16) (some 0)
  | ds => ds.foldl (readDigit 10) (some 0)

/-- The words of a line: the runs of characters between spaces. -/
def lineWords (cs : List Char) : List (List Char) := (cs.splitOn ' ').filter fun w => !w.isEmpty

/-- R98: a command's mnemonic, in upper case. -/
def mnemonicOf : Instr → List Char
  | .nop => "NOP".toList
  | .init => "INIT".toList
  | .absorb _ => "ABSORB".toList
  | .finalize => "FINALIZE".toList
  | .update => "UPDATE".toList
  | .round => "ROUND".toList
  | .clear => "CLEAR".toList

/-- R98: the command of a line of assembler text, mnemonics case-insensitive, `ABSORB n` with n in 1..32. -/
def parseCommand (cs : List Char) : Option Instr :=
  match lineWords (cs.map Char.toUpper) with
  | [m] => [Instr.nop, .init, .finalize, .update, .round, .clear].find? fun i => mnemonicOf i == m
  | [m, a] =>
    if m = "ABSORB".toList then
      match parseNumber a with
      | some n => if 1 ≤ n ∧ n ≤ 32 then some (.absorb (BitVec.ofNat 6 n)) else none
      | none => none
    else none
  | _ => none

/-- R98: each mnemonic assembles to its command word. -/
def assemble (text : String) : Option Word := (parseCommand text.toList).map encode

/-- The decimal digits of a number below 100. -/
def decimalChars (n : Nat) : List Char :=
  if n < 10 then [Char.ofNat (48 + n)] else [Char.ofNat (48 + n / 10), Char.ofNat (48 + n % 10)]

/-- R98: a command written in assembler syntax. -/
def commandChars : Instr → List Char
  | .nop => mnemonicOf .nop
  | .init => mnemonicOf .init
  | .absorb n => mnemonicOf (.absorb n) ++ ' ' :: decimalChars n.toNat
  | .finalize => mnemonicOf .finalize
  | .update => mnemonicOf .update
  | .round => mnemonicOf .round
  | .clear => mnemonicOf .clear

/-- A hexadecimal digit, in upper case. -/
def hexDigit (n : Nat) : Char := if n < 10 then Char.ofNat (48 + n) else Char.ofNat (55 + n)

/-- The hexadecimal digits of a number below 256, in upper case. -/
def hexChars (n : Nat) : List Char := if n < 16 then [hexDigit n] else [hexDigit (n / 16), hexDigit (n % 16)]

/-- R98: a command written in assembler syntax with its length, if it has one, in hexadecimal. -/
def commandHexChars : Instr → List Char
  | .nop => mnemonicOf .nop
  | .init => mnemonicOf .init
  | .absorb n => mnemonicOf (.absorb n) ++ ' ' :: '0' :: 'X' :: hexChars n.toNat
  | .finalize => mnemonicOf .finalize
  | .update => mnemonicOf .update
  | .round => mnemonicOf .round
  | .clear => mnemonicOf .clear

/-! Host scripts (R99). -/

/-- A position in a script: a label the script names, or the one that the `wait` on line k makes. -/
inductive Label where
  | named (l : String)
  | wait (k : Nat)
  deriving DecidableEq, Repr

/-- R99: the primitive host instructions. -/
inductive HostInstr where
  /-- `wr OFF, V`. -/
  | wr (off : Nat) (v : Word)
  /-- `rd OFF -> name`. -/
  | rd (off : Nat) (name : String)
  /-- `label:`. -/
  | label (l : Label)
  /-- `bnz name, MASK, label`: branch if `(name & MASK) != 0`. -/
  | bnz (name : String) (mask : Word) (target : Label)
  /-- `bz name, MASK, label`: branch if `(name & MASK) = 0`. -/
  | bz (name : String) (mask : Word) (target : Label)
  deriving DecidableEq, Repr

/-- R99: a line of a script: a primitive instruction or a pseudo-instruction. -/
inductive ScriptLine where
  | prim (h : HostInstr)
  | cmd (i : Instr)
  | wait
  | ldin (bytes : List Byte)
  | ldst (i : Fin 8) (B : Block)
  | rdtag (name : String)
  | ack
  deriving DecidableEq, Repr

/-- R99: the expansion of line k. The spec gives `ldin` at most 32 bytes; of a longer list the first 32 are
loaded (DESIGN CHOICE, notes/assumptions/12.md, as is the label of `wait`). -/
def expandLine (k : Nat) : ScriptLine → List HostInstr
  | .prim h => [h]
  | .cmd i => [.wr 0x008 (encode i)]
  | .wait => [.label (.wait k), .rd 0x00C "st", .bnz "st" 0x1 (.wait k)]
  | .ldin bytes =>
    (List.finRange 8).map fun w => .wr (0x020 + 4 * w.val) (getWord (chunkOf bytes 0) w.val (by omega))
  | .ldst i B =>
    (List.finRange 4).map fun w => .wr (0x100 + 16 * i.val + 4 * w.val) (getWord B w.val (by omega))
  | .rdtag name =>
    [.rd 0x040 (name ++ "0"), .rd 0x044 (name ++ "1"), .rd 0x048 (name ++ "2"), .rd 0x04C (name ++ "3")]
  | .ack => [.wr 0x00C 0x6]

/-- R99, R100: a script's primitive instructions, its lines numbered from k. -/
def expandFrom (k : Nat) : List ScriptLine → List HostInstr
  | [] => []
  | l :: rest => expandLine k l ++ expandFrom (k + 1) rest

/-- R99: the host that runs a script: its program, its own program counter and the names it has read. -/
structure HostAgent where
  code : List HostInstr
  pc : Nat
  vars : List (String × Word)
  deriving DecidableEq, Repr

/-- R4, R20: the two agents together. -/
structure System where
  host : HostAgent
  core : State
  deriving DecidableEq, Repr

/-- Who takes the next step of a system (R78, R221: the scheduler's choice). -/
inductive Agent where
  | host
  | engine
  | reset
  deriving DecidableEq, Repr

/-- How a turn of a system ends. -/
inductive SystemOutcome where
  | next (y : System)
  /-- The core refused the access (R70). -/
  | refused (r : Refusal)
  /-- A branch on a name that no `rd` has written yet, to which R99 gives no meaning. -/
  | unreadName (name : String)
  /-- A branch to a label the script does not hold. -/
  | noLabel (l : Label)
  deriving DecidableEq, Repr

/-- The core's answer to an event, taken into the system. -/
def System.afterEvent (y : System) (host : HostAgent) (e : Event) : SystemOutcome :=
  match turn e y.core with
  | .next t => .next ⟨host, t⟩
  | .refused r => .refused r

/-- R99: the branch to a label, if it is taken. -/
def System.branch (y : System) (name : String) (taken : Word → Bool) (target : Label) : SystemOutcome :=
  match y.host.vars.lookup name with
  | none => .unreadName name
  | some v =>
    if taken v then
      match y.host.code.findIdx? fun h => h == .label target with
      | some k => .next { y with host := { y.host with pc := k } }
      | none => .noLabel target
    else .next { y with host := { y.host with pc := y.host.pc + 1 } }

/-- R99: one primitive instruction of the host. Past the script's end the host issues nothing (R293). -/
def System.hostTurn (y : System) : SystemOutcome :=
  let next := { y.host with pc := y.host.pc + 1 }
  match y.host.code[y.host.pc]? with
  | none => .next y
  | some (.wr off v) => y.afterEvent next (.write off 4 v)
  | some (.rd off name) =>
    match turn (.read off 4) y.core with
    | .next t => .next ⟨{ next with vars := (name, (t.replies.headD (off, 0)).2) :: y.host.vars }, t⟩
    | .refused r => .refused r
  | some (.label _) => .next { y with host := next }
  | some (.bnz name mask target) => y.branch name (fun v => v &&& mask != 0) target
  | some (.bz name mask target) => y.branch name (fun v => v &&& mask == 0) target

/-- R20, R78: one step of a system, by the agent the scheduler picks. -/
def System.turn (a : Agent) (y : System) : SystemOutcome :=
  match a with
  | .host => y.hostTurn
  | .engine => y.afterEvent y.host .engine
  | .reset => y.afterEvent y.host .reset

/-! The driver (R284). -/

/-- R284 steps 3 and 4: the input bytes of chunk i, at most 32 of them. -/
def inputChunk (b : List Byte) (i : Nat) : List Byte := (b.drop (32 * i)).take 32

/-- What R284 leaves to a driver. -/
structure DriverChoice where
  /-- Step 4: "the other DIN bytes may hold anything"; what a DIN word holds after the last input byte. -/
  fill : List Byte
  /-- Step 4: how many DIN words are written beyond the last that holds an input byte. -/
  extraWords : Nat
  /-- Step 8: whether CLEAR follows the tag. -/
  erase : Bool
  deriving DecidableEq, Repr

/-- R284 steps 3 and 4: the writes that put a chunk's bytes in DIN. A DIN word that is not written keeps what it
held (R288). -/
def loadLines (ch : DriverChoice) (bytes : List Byte) : List ScriptLine :=
  (List.finRange 8).filterMap fun w =>
    if w.val < (bytes.length + 3) / 4 + ch.extraWords then
      some (.prim (.wr (0x020 + 4 * w.val) (getWord (chunkOf (bytes ++ ch.fill) 0) w.val (by omega))))
    else none

/-- R284 step 6: read STATUS and check ERR = 0, TAG_VALID = 1 and RAW = 0; a check that fails goes to `fail`. -/
def checkLines : List ScriptLine :=
  [.prim (.rd 0x00C "st"), .prim (.bnz "st" 0x004 (.named "fail")), .prim (.bz "st" 0x800 (.named "fail")),
    .prim (.bnz "st" 0x080 (.named "fail"))]

/-- R284 steps 2 to 8, for an input the driver did not reject: INIT, one ABSORB a chunk, FINALIZE, the check of
STATUS, the tag, and CLEAR if the driver erases. That a failed check skips the rest of the script, and that a `wait`
follows the CLEAR of step 8, which R284 writes without one, are the model's (DESIGN CHOICE,
notes/assumptions/15.md). -/
def driverScript (ch : DriverChoice) (b : List Byte) : List ScriptLine :=
  [.cmd .init, .wait] ++
    (List.range (chunkCount b)).flatMap (fun i =>
      loadLines ch (inputChunk b i) ++
        [.cmd (.absorb (BitVec.ofNat 6 (inputChunk b i).length)), .wait]) ++
    [.cmd .finalize, .wait] ++ checkLines ++ [.rdtag "t"] ++
    (if ch.erase then [.cmd .clear, .wait] else []) ++ [.prim (.label (.named "fail"))]

/-- The one error of a driver. -/
inductive DriverError where
  /-- R252, R284 step 1: the buffer is absent. -/
  | invalidInput
  deriving DecidableEq, Repr

/-- R252, R284: an absent buffer is rejected before any access; a present one, empty or not, is summed. -/
def driver (ch : DriverChoice) (input : Option (List Byte)) : Except DriverError (List ScriptLine) :=
  match input with
  | none => .error .invalidInput
  | some b => .ok (driverScript ch b)

/-! The accesses of a script (R100). -/

/-- R100: the events of a script's line whose branches, those of `wait` apart, are not taken. A `wait` polls
`polls` times while the command is pending, then the engine completes it, and the next poll leaves the loop. -/
def lineEvents (polls : Nat) : ScriptLine → List Event
  | .wait => List.replicate polls (.read 0x00C 4) ++ [.engine, .read 0x00C 4]
  | l =>
    (expandLine 0 l).filterMap fun h =>
      match h with
      | .wr off v => some (.write off 4 v)
      | .rd off _ => some (.read off 4)
      | .label _ => none
      | .bnz _ _ _ => none
      | .bz _ _ _ => none

/-- R100: the events of a script, its lines numbered from k; `polls` says how often the `wait` on each line polls
in vain. -/
def scriptEvents (polls : Nat → Nat) (k : Nat) : List ScriptLine → List Event
  | [] => []
  | l :: rest => lineEvents (polls k) l ++ scriptEvents polls (k + 1) rest

/-- R284: the driver's events when the check of step 6 passes. -/
def driverEvents (polls : Nat → Nat) (ch : DriverChoice) (b : List Byte) : List Event :=
  scriptEvents polls 0 (driverScript ch b)

/-! Runs of the host beside the core. -/

/-- k turns of the host with none of the engine between them. -/
def System.hostTurns : Nat → System → SystemOutcome
  | 0, y => .next y
  | k + 1, y =>
    match y.hostTurn with
    | .next z => z.hostTurns k
    | .refused r => .refused r
    | .unreadName name => .unreadName name
    | .noLabel l => .noLabel l

/-- The event that a turn brings to the core, if it brings one. -/
def System.event (a : Agent) (y : System) : Option Event :=
  match a with
  | .engine => some .engine
  | .reset => some .reset
  | .host =>
    match y.host.code[y.host.pc]? with
    | some (.wr off v) => some (.write off 4 v)
    | some (.rd off _) => some (.read off 4)
    | some (.label _) => none
    | some (.bnz _ _ _) => none
    | some (.bz _ _ _) => none
    | none => none

end Sys2Proof.Machine
end

