-- ==== Sys2Proof/Safety.lean ====
section
/-! DEFINITION. The terms in which claims about runs are made: which command the next step completes, which
register it writes, the invariant of reachable states, the architectural part of a state, and the input
absorbed so far in a construction (10_state.md R21; 42_checksum.md R183). -/

namespace Sys2Proof.Machine

/-- R221: the command the next step completes, if it is a completion. -/
def State.completing (s : State) : Option Instr :=
  if s.busy then
    match s.agenda with
    | [] => some s.pending
    | .engine :: _ => some s.pending
    | .read _ _ :: _ => none
    | .write _ _ _ :: _ => none
    | .reset :: _ => none
  else none

/-- R73: the register and the word of the host write the next step performs, if it is one. -/
def State.nextWrite (s : State) : Option (Reg × Word) :=
  match s.agenda with
  | .write off width v :: _ =>
    match checkAccess off width with
    | .ok o => some (regAt o, v)
    | .error _ => none
  | _ => none

/-- R280: the next step is a reset. -/
def State.nextIsReset (s : State) : Bool :=
  match s.agenda with
  | .reset :: _ => true
  | _ => false

/-- R30: the next step is a host write to a STATE word that is not dropped. -/
def State.nextChangesBlocks (s : State) : Bool :=
  !s.busy &&
    match s.nextWrite with
    | some (.state _ _, _) => true
    | _ => false

/-- R69: the event is not an access the core refuses. -/
def Event.admitted : Event → Bool
  | .read off width => (checkAccess off width).toBool
  | .write off width _ => (checkAccess off width).toBool
  | .engine => true
  | .reset => true

/-- R21: the architectural part of a state; the model's own fields are emptied. -/
def State.arch (s : State) : State := { s with agenda := [], replies := [], draws := 0 }

/-- What every state that a run reaches has (a step keeps it; reset has it). -/
structure State.Inv (s : State) : Prop where
  /-- R241, R242: no error recorded means code 0. -/
  noError : s.err = false → s.errcode = 0
  /-- R242, R253: a recorded error has code 1 to 4; 5, 6 and 7 are never recorded. -/
  someError : s.err = true → 1 ≤ s.errcode.toNat ∧ s.errcode.toNat ≤ 4
  /-- R32, R33: a pending command has not completed. -/
  busyNotDone : s.busy = true → s.done = false
  /-- R94: a pending command is a legal one. -/
  pendingLegal : s.busy = true → s.pending.WellFormed
  /-- R220: what acceptance checked still holds when the command completes (R76). -/
  pendingAccepted : s.busy = true → acceptanceError s.pending s = none
  /-- R29: TAIL is 1 only while absorbing. -/
  tailAbsorbing : s.tail = true → s.phase = .absorbing
  /-- R28, R31: TAG_VALID is 1 exactly in phase FINALIZED. -/
  tagValidFinalized : s.tagValid = true ↔ s.phase = .finalized
  /-- R25: TAG is `Z` unless FINALIZE wrote it. -/
  tagZero : s.tagValid = false → s.tag = zeroBlock
  /-- R27: nothing is counted before the first ABSORB. -/
  bitsZero : s.phase = .uninit ∨ s.phase = .initialized → s.adbits = 0
  /-- R176: ADBITS counts whole bytes. -/
  bitsWholeBytes : s.adbits.toNat % 8 = 0
  /-- R29, R176: while absorbing, TAIL tells whether the last chunk was short. -/
  bitsTail : s.phase = .absorbing → (s.tail = true ↔ s.adbits.toNat % 256 ≠ 0)

/-- R174, R176, R183: the construction in progress has absorbed exactly the bytes b. -/
structure Absorbed (b : List Byte) (s : State) : Prop where
  blocks : s.S = absorbAll b
  bits : s.adbits.toNat = 8 * b.length
  phase : s.phase = if b = [] then .initialized else .absorbing
  tail : s.tail = decide (b.length % 32 ≠ 0)
  raw : s.raw = false

/-- R183: the bytes absorbed in the construction in progress after the next step, from those before it:
INIT begins a construction, ABSORB n appends n bytes of DIN, and UPDATE, an accepted STATE write, FINALIZE,
CLEAR and reset end it. Nothing else matters to it. -/
def absorbedAfter (g : Option (List Byte)) (s : State) : Option (List Byte) :=
  match s.completing with
  | some .nop => g
  | some .init => some []
  | some (.absorb n) => g.map fun b => b ++ s.din.toList.take n.toNat
  | some .finalize => none
  | some .update => none
  | some .round => g
  | some .clear => none
  | none => if s.nextIsReset || s.nextChangesBlocks then none else g

/-- k steps from a state, with the bytes absorbed in the construction in progress. -/
def watch : Nat → Option (List Byte) → State → Option (Option (List Byte) × State)
  | 0, g, s => some (g, s)
  | k + 1, g, s =>
    match step s with
    | .next t => watch k (absorbedAfter g s) t
    | .refused _ => none

/-- R61, R73: the registers whose word the completion of a command may change, apart from STATUS, which
every completion writes (R221). -/
def writesReg : Instr → Reg → Bool
  | .nop, _ => false
  | .init, r =>
    match r with
    | .state _ _ => true
    | .tag _ => true
    | .adbitsLo => true
    | .adbitsHi => true
    | _ => false
  | .absorb _, r =>
    match r with
    | .state _ _ => true
    | .adbitsLo => true
    | .adbitsHi => true
    | _ => false
  | .finalize, r =>
    match r with
    | .state _ _ => true
    | .tag _ => true
    | _ => false
  | .update, r =>
    match r with
    | .state _ _ => true
    | _ => false
  | .round, r =>
    match r with
    | .rndout _ => true
    | _ => false
  | .clear, r =>
    match r with
    | .state _ _ => true
    | .din _ => true
    | .tag _ => true
    | .rndout _ => true
    | .adbitsLo => true
    | .adbitsHi => true
    | _ => false

end Sys2Proof.Machine
end

