-- ==== Sys2Proof/Certificates/Slice0/Obligations.lean ====
section
/-! DEFINITION. The statements about the model, each a formal reading of a rule of spec/ (OBLIGATIONS.json says
which), for every state and operand unless a hypothesis says otherwise. A statement about a host access is
made of `step` in a state whose agenda begins with that access. -/

open Sys2Proof Sys2Proof.Machine

/-! The encoding. -/

/-- Words written out from R91's layout and R93's opcodes (RSV1, LEN, RSV0, OP) decode to the commands they
stand for, and the words R95 calls illegal do not decode. -/
def Obligations.WordsDecodeAsTheTableSays : Prop :=
  decode 0b000000000000000000_000000_0000_0000#32 = .cmd .nop ∧
  decode 0b000000000000000000_000000_0000_0001#32 = .cmd .init ∧
  decode 0b000000000000000000_000001_0000_0010#32 = .cmd (.absorb 1) ∧
  decode 0b000000000000000000_010001_0000_0010#32 = .cmd (.absorb 17) ∧
  decode 0b000000000000000000_100000_0000_0010#32 = .cmd (.absorb 32) ∧
  decode 0b000000000000000000_000000_0000_0011#32 = .cmd .finalize ∧
  decode 0b000000000000000000_000000_0000_0100#32 = .cmd .update ∧
  decode 0b000000000000000000_000000_0000_0101#32 = .cmd .round ∧
  decode 0b000000000000000000_000000_0000_0110#32 = .cmd .clear ∧
  decode 0x00000002#32 = .illegal .len ∧
  decode 0x00002102#32 = .illegal .len ∧
  decode 0x00000101#32 = .illegal .len ∧
  decode 0x00000007#32 = .illegal .opcode ∧
  decode 0x00000010#32 = .illegal .reservedBit ∧
  decode 0x80000001#32 = .illegal .reservedBit

/-- R93: a word decodes to a command exactly when it matches that command's row of the table: its fixed bits
agree and, for ABSORB, LEN is the operand and lies in 1..32. -/
def Obligations.LegalWordsAreTheTableRows : Prop :=
  ∀ (v : Word) (i : Instr), decode v = .cmd i ↔
    match i with
    | .nop => v &&& 0xFFFFFFFF#32 = 0x00000000#32
    | .init => v &&& 0xFFFFFFFF#32 = 0x00000001#32
    | .absorb n =>
      v &&& 0xFFFFC0FF#32 = 0x00000002#32 ∧ n = v.extractLsb' 8 6 ∧ 1 ≤ n.toNat ∧ n.toNat ≤ 32
    | .finalize => v &&& 0xFFFFFFFF#32 = 0x00000003#32
    | .update => v &&& 0xFFFFFFFF#32 = 0x00000004#32
    | .round => v &&& 0xFFFFFFFF#32 = 0x00000005#32
    | .clear => v &&& 0xFFFFFFFF#32 = 0x00000006#32

/-- R91 to R94: decoding and encoding agree in both directions: every well-formed command's word decodes to
it, and a word that decodes to a command is that command's word, and the command is well formed. -/
def Obligations.DecodeAndEncodeAgree : Prop :=
  (∀ i : Instr, i.WellFormed → decode (encode i) = .cmd i) ∧
  (∀ (v : Word) (i : Instr), decode v = .cmd i → i.WellFormed ∧ encode i = v)

/-- R98: a command written in assembler syntax, in any mix of upper and lower case and with its length in decimal or
in hexadecimal, assembles to its word. R98 makes only the mnemonics case-insensitive; that the prefix `0x` and the
hexadecimal digits are so too, and how words are spaced, are the model's choices (notes/assumptions/12.md). -/
def Obligations.AssemblerGivesEveryCommandItsWord : Prop :=
  ∀ (i : Instr) (text : List Char), i.WellFormed →
    text.map Char.toUpper = commandChars i ∨ text.map Char.toUpper = commandHexChars i →
    (parseCommand text).map encode = some (encode i)

/-! A step runs the decoded command. -/

/-- R220, R221: while a command is pending, the engine's turn (and the turn after the last input) is the
completion of that command; a CMD write of an acceptable word followed by the engine's turn is the completion
of the command the word decodes to; and the step after `withFetchWord` is that of the word's command. -/
def Obligations.StepRunsTheDecodedCommand : Prop :=
  (∀ (s : State), s.busy = true → s.agenda = [] → step s = exec s.pending s) ∧
  (∀ (s : State) (rest : List Event), s.busy = true → s.agenda = .engine :: rest →
    step s = exec s.pending { s with agenda := rest }) ∧
  (∀ (s : State) (v : Word) (i : Instr) (rest : List Event),
    s.busy = false → decode v = .cmd i → acceptanceError i s = none →
    ∃ u, step { s with agenda := .write 0x008 4 v :: .engine :: rest } = .next u ∧
      step u = exec i { s with pending := i, busy := true, done := false, agenda := rest }) ∧
  (∀ (s : State) (w : Nat) (i : Instr), decodeTableWord 32 w = some i →
    step (s.withFetchWord 32 w) = exec i { s with pending := i, busy := true, done := false })

/-- R20: with BUSY = 0 the engine has no step: its turn, and the turn after the last input, change nothing
(the turn itself is the model's, notes/assumptions/1.md and 4.md). -/
def Obligations.IdleEngineChangesNothing : Prop :=
  (∀ (s : State), s.busy = false → s.agenda = [] → step s = .next s) ∧
  (∀ (s : State) (rest : List Event), s.busy = false → s.agenda = .engine :: rest →
    step s = .next { s with agenda := rest })

/-! The completions. Each gives the whole next state, so each is also that command's frame. -/

/-- R222: NOP does nothing except complete. -/
def Obligations.NopCompletes : Prop :=
  ∀ s : State, exec .nop s = .next { s with busy := false, done := true }

/-- R130: ROUND writes `AESRound(DIN[0..15], DIN[16..31])` to RNDOUT and changes no other data. -/
def Obligations.RoundCompletes : Prop :=
  ∀ s : State, exec .round s = .next { s with
    rndout := aesRound (Vector.ofFn fun j : Fin 16 => s.din[j.val])
      (Vector.ofFn fun j : Fin 16 => s.din[16 + j.val])
    busy := false, done := true }

/-- R153: UPDATE runs one State Update of S with DIN's two halves and sets RAW. -/
def Obligations.UpdateCompletes : Prop :=
  ∀ s : State, exec .update s = .next { s with
    S := stateUpdate s.S (Vector.ofFn fun j : Fin 16 => s.din[j.val])
      (Vector.ofFn fun j : Fin 16 => s.din[16 + j.val])
    raw := true, busy := false, done := true }

/-- R173: INIT sets S to the initial state and starts a construction; it leaves DIN, RNDOUT, IE and the error
record alone. R170 to R172: the initial state is ten updates, with zero blocks, of the layout (Z, C1, C0, C1, Z, C0,
C1, C0), here in bytes. (The spec marks the constants and the layout of R170, R171 as from general knowledge.) -/
def Obligations.InitCompletes : Prop :=
  ∀ s : State, exec .init s = .next { s with
    S := (List.range 10).foldl
      (fun X _ => stateUpdate X (Vector.replicate 16 0) (Vector.replicate 16 0))
      #v[Vector.replicate 16 0,
        #v[0xdb, 0x3d, 0x18, 0x55, 0x6d, 0xc2, 0x2f, 0xf1, 0x20, 0x11, 0x31, 0x42, 0x73, 0xb5, 0x28, 0xdd],
        #v[0x00, 0x01, 0x01, 0x02, 0x03, 0x05, 0x08, 0x0d, 0x15, 0x22, 0x37, 0x59, 0x90, 0xe9, 0x79, 0x62],
        #v[0xdb, 0x3d, 0x18, 0x55, 0x6d, 0xc2, 0x2f, 0xf1, 0x20, 0x11, 0x31, 0x42, 0x73, 0xb5, 0x28, 0xdd],
        Vector.replicate 16 0,
        #v[0x00, 0x01, 0x01, 0x02, 0x03, 0x05, 0x08, 0x0d, 0x15, 0x22, 0x37, 0x59, 0x90, 0xe9, 0x79, 0x62],
        #v[0xdb, 0x3d, 0x18, 0x55, 0x6d, 0xc2, 0x2f, 0xf1, 0x20, 0x11, 0x31, 0x42, 0x73, 0xb5, 0x28, 0xdd],
        #v[0x00, 0x01, 0x01, 0x02, 0x03, 0x05, 0x08, 0x0d, 0x15, 0x22, 0x37, 0x59, 0x90, 0xe9, 0x79, 0x62]]
    adbits := 0, phase := .initialized, tail := false, raw := false,
    tag := zeroBlock, tagValid := false, busy := false, done := true }

/-- R178: ABSORB n, with the length that acceptance checks (R220 check 4), absorbs the first n bytes of DIN,
zero-padded, counts 8n bits, and sets TAIL when n < 32. -/
def Obligations.AbsorbCompletes : Prop :=
  ∀ (s : State) (n : BitVec 6), 1 ≤ n.toNat → n.toNat ≤ 32 → s.adbits.toNat + 8 * n.toNat ≤ 2 ^ 64 - 1 →
    ∃ t, exec (.absorb n) s = .next t ∧
      t.adbits.toNat = s.adbits.toNat + 8 * n.toNat ∧
      t = { s with
        S := stateUpdate s.S
          (Vector.ofFn fun j : Fin 16 => if j.val < n.toNat then s.din[j.val] else 0)
          (Vector.ofFn fun j : Fin 16 => if 16 + j.val < n.toNat then s.din[16 + j.val] else 0)
        adbits := t.adbits, phase := .absorbing, tail := decide (n.toNat < 32),
        busy := false, done := true }

/-- R180: FINALIZE replaces S by `Finalize(S, ADBITS)`, writes its tag and marks it valid; it keeps ADBITS,
RAW, DIN and RNDOUT. -/
def Obligations.FinalizeCompletes : Prop :=
  ∀ s : State, exec .finalize s = .next { s with
    S := finalizeBlocks s.S s.adbits, tag := tagOf (finalizeBlocks s.S s.adbits), tagValid := true,
    phase := .finalized, tail := false, busy := false, done := true }

/-- R223: CLEAR returns every field but IE to its reset value, sets DONE, and leaves STATUS = 2. -/
def Obligations.ClearCompletes : Prop :=
  ∀ s : State, ∃ t, exec .clear s = .next t ∧ statusWord t = 0x00000002 ∧
    t = { s with
      S := Vector.replicate 8 (Vector.replicate 16 0), din := Vector.replicate 32 0,
      tag := Vector.replicate 16 0, rndout := Vector.replicate 16 0, adbits := 0,
      phase := .uninit, tail := false, raw := false, tagValid := false,
      err := false, errcode := 0, busy := false, done := true }

/-- R221, R246: every completion succeeds, clears BUSY, sets DONE and raises no error; only CLEAR touches a
recorded error, and it clears it. -/
def Obligations.CompletionsRaiseNoError : Prop :=
  ∀ (i : Instr) (s : State), ∃ t, exec i s = .next t ∧ t.busy = false ∧ t.done = true ∧
    (i ≠ .clear → t.err = s.err ∧ t.errcode = s.errcode) ∧
    (i = .clear → t.err = false ∧ t.errcode = 0)

/-- The frame of the completions over the register window: a completion leaves every register word as it
was, but for STATUS and the words its rule names. -/
def Obligations.CompletionsLeaveOtherWords : Prop :=
  ∀ (i : Instr) (s t : State) (r : Reg), exec i s = .next t → r ≠ .status → writesReg i r = false →
    readReg r t = readReg r s

/-- R178, R288: DIN bytes at positions n and above do not matter to ABSORB n. -/
def Obligations.AbsorbIgnoresStaleBytes : Prop :=
  ∀ (s : State) (n : BitVec 6) (d : Chunk),
    (∀ (j : Nat) (h : j < 32), j < n.toNat → d[j] = s.din[j]) →
    ∃ t, exec (.absorb n) s = .next t ∧ exec (.absorb n) { s with din := d } = .next { t with din := d }

/-! The three layers. -/

/-- R120, R122, R125 to R127: each byte of a round, written out: the four substituted bytes that ShiftRows
brings into column c, mixed by the matrix of R126 with the multiplication of R124, and the key's byte. (The spec
marks these rules as from general knowledge.) -/
def Obligations.AesRoundByteByByte : Prop :=
  ∀ (S K : Block) (c : Nat) (h : c < 4),
    let a0 := sbox (S[4 * c]'(by omega))
    let a1 := sbox (S[1 + 4 * ((c + 1) % 4)]'(by omega))
    let a2 := sbox (S[2 + 4 * ((c + 2) % 4)]'(by omega))
    let a3 := sbox (S[3 + 4 * ((c + 3) % 4)]'(by omega))
    (aesRound S K)[4 * c]'(by omega) = gmul a0 2 ^^^ gmul a1 3 ^^^ a2 ^^^ a3 ^^^ K[4 * c]'(by omega) ∧
    (aesRound S K)[4 * c + 1]'(by omega) = a0 ^^^ gmul a1 2 ^^^ gmul a2 3 ^^^ a3 ^^^ K[4 * c + 1]'(by omega) ∧
    (aesRound S K)[4 * c + 2]'(by omega) = a0 ^^^ a1 ^^^ gmul a2 2 ^^^ gmul a3 3 ^^^ K[4 * c + 2]'(by omega) ∧
    (aesRound S K)[4 * c + 3]'(by omega) = gmul a0 3 ^^^ a1 ^^^ a2 ^^^ gmul a3 2 ^^^ K[4 * c + 3]'(by omega)

/-- R123: every byte has a field inverse (0 for 0), and the substitution table is that inverse followed by the
affine map. (The spec marks R120 to R126 and R129 as from general knowledge.) -/
def Obligations.SboxIsInverseThenAffine : Prop :=
  (∀ a : Byte, ∃ b : Byte, (a = 0 ∧ b = 0) ∨ (a ≠ 0 ∧ gmul a b = 1)) ∧
  ∀ a b : Byte, (a = 0 ∧ b = 0) ∨ (a ≠ 0 ∧ gmul a b = 1) →
    sbox a = b ^^^ b.rotateLeft 1 ^^^ b.rotateLeft 2 ^^^ b.rotateLeft 3 ^^^ b.rotateLeft 4 ^^^ 0x63

/-- R129: SubBytes, ShiftRows and MixColumns are bijective, so for a fixed key the round is a permutation of the
blocks; and for a fixed block it is a permutation of the keys. (Marked by the spec as from general knowledge.) -/
def Obligations.AesRoundIsAPermutation : Prop :=
  Function.Bijective subBytes ∧ Function.Bijective shiftRows ∧ Function.Bijective mixColumns ∧
  (∀ K : Block, Function.Bijective fun S : Block => aesRound S K) ∧
  (∀ S : Block, Function.Bijective fun K : Block => aesRound S K)

/-- R23, R150: new block i is the round of block i−1 (mod 8) keyed by old block i, with M0 in the key of block
0 and M1 in the key of block 4. (The spec marks the schedule as from general knowledge.) -/
def Obligations.UpdateBlockByBlock : Prop :=
  ∀ (S : Blocks) (M0 M1 : Block) (i : Nat) (h : i < 8),
    (stateUpdate S M0 M1)[i] =
      aesRound (S[(i + 7) % 8]'(by omega))
        (Vector.ofFn fun j : Fin 16 =>
          S[i][j.val] ^^^ (if i = 0 then M0[j.val] else if i = 4 then M1[j.val] else 0))

/-- R151: each input block reaches exactly one state block of one update: M0 is xored into new block 0, M1
into new block 4, and the other six blocks do not depend on them. (Marked by the spec as from general
knowledge.) -/
def Obligations.InjectionReachesOneBlockEach : Prop :=
  ∀ (S : Blocks) (M0 M1 : Block),
    (∀ (i : Nat) (h : i < 8), i ≠ 0 → i ≠ 4 →
      (stateUpdate S M0 M1)[i] = (stateUpdate S zeroBlock zeroBlock)[i]) ∧
    (∀ (j : Nat) (h : j < 16),
      (stateUpdate S M0 M1)[0][j] = (stateUpdate S zeroBlock zeroBlock)[0][j] ^^^ M0[j] ∧
      (stateUpdate S M0 M1)[4][j] = (stateUpdate S zeroBlock zeroBlock)[4][j] ^^^ M1[j])

/-- R175, R177: byte j of the block injected by FINALIZE is byte j of S[2] xored, in bytes 0 to 7, with byte j
of ADBITS, least significant first; bytes 8 to 15 are those of S[2], the message length being 0. (The spec marks
the position and the layout as from general knowledge.) -/
def Obligations.FinalizeInjectsTheLengthBlock : Prop :=
  ∀ (S : Blocks) (adbits : BitVec 64),
    finalizeBlocks S adbits =
      (let t : Block := Vector.ofFn fun j : Fin 16 =>
        S[2][j.val] ^^^ (if j.val < 8 then BitVec.ofNat 8 (adbits.toNat / 2 ^ (8 * j.val)) else 0)
      (List.range 7).foldl (fun X _ => stateUpdate X t t) S)

/-- R179: the tag FINALIZE writes is the bytewise xor of the first seven final blocks, byte order preserved;
S[7] is not in it. (The spec marks the choice of blocks as from general knowledge.) -/
def Obligations.TagIsTheXorOfSevenBlocks : Prop :=
  ∀ s : State, ∃ t, exec .finalize s = .next t ∧
    ∀ (j : Nat) (h : j < 16),
      t.tag[j] = t.S[0][j] ^^^ t.S[1][j] ^^^ t.S[2][j] ^^^ t.S[3][j] ^^^ t.S[4][j] ^^^ t.S[5][j] ^^^ t.S[6][j]

/-! The command protocol and its errors. -/

/-- R220, R245: what a CMD write does, case by case in the order of the checks: dropped while BUSY = 1; an
illegal word; ABSORB or FINALIZE out of phase, or ABSORB after a short chunk; a length that would overflow;
and acceptance, which changes only PENDING, BUSY and DONE. A refused write changes only ERR and ERRCODE. -/
def Obligations.CommandAcceptance : Prop :=
  ∀ (s : State) (rest : List Event) (v : Word),
    let write := step { s with agenda := .write 0x008 4 v :: rest }
    let refuse := fun code : BitVec 3 =>
      { s with agenda := rest, err := true, errcode := if s.err then s.errcode else code }
    let accept := fun i : Instr => { s with agenda := rest, pending := i, busy := true, done := false }
    let inPhase := s.phase = .initialized ∨ s.phase = .absorbing
    (s.busy = true → write = .next (refuse 3)) ∧
    (s.busy = false → (∀ i : Instr, i.WellFormed → encode i ≠ v) → write = .next (refuse 1)) ∧
    (∀ n : BitVec 6, s.busy = false → (Instr.absorb n).WellFormed → encode (.absorb n) = v →
      (¬ (inPhase ∧ s.tail = false) → write = .next (refuse 2)) ∧
      (inPhase ∧ s.tail = false → s.adbits.toNat + 8 * n.toNat > 2 ^ 64 - 1 → write = .next (refuse 4)) ∧
      (inPhase ∧ s.tail = false → s.adbits.toNat + 8 * n.toNat ≤ 2 ^ 64 - 1 →
        write = .next (accept (.absorb n)))) ∧
    (s.busy = false → encode .finalize = v →
      (¬ inPhase → write = .next (refuse 2)) ∧ (inPhase → write = .next (accept .finalize))) ∧
    (∀ i : Instr, s.busy = false → i = .nop ∨ i = .init ∨ i = .update ∨ i = .round ∨ i = .clear →
      encode i = v → write = .next (accept i))

/-- R95: a word with a nonzero reserved bit, an opcode above 6, a LEN out of ABSORB's range, or a LEN beside
another opcode, raises ILLEGAL_CMD and changes nothing else: no BUSY, no DONE, no state. -/
def Obligations.IllegalWordsOnlyRecordAnError : Prop :=
  ∀ (s : State) (rest : List Event) (v : Word), s.busy = false →
    (7 ≤ (v.extractLsb' 0 4).toNat ∨ v.extractLsb' 4 4 ≠ 0 ∨ v.extractLsb' 14 18 ≠ 0 ∨
      (v.extractLsb' 0 4 = 2 ∧ (v.extractLsb' 8 6 = 0 ∨ 33 ≤ (v.extractLsb' 8 6).toNat)) ∨
      (v.extractLsb' 0 4 ≠ 2 ∧ v.extractLsb' 8 6 ≠ 0)) →
    step { s with agenda := .write 0x008 4 v :: rest } =
      .next { s with agenda := rest, err := true, errcode := if s.err then s.errcode else 1 }

/-- R76: while BUSY = 1, writes to DIN, STATE and CMD are dropped and each raises BUSY_WRITE; writes to CTRL
and STATUS take effect as usual; and no host access changes S, DIN or PENDING. -/
def Obligations.BusyWritesAreDropped : Prop :=
  (∀ (s : State) (rest : List Event) (v : Word) (off : Nat), s.busy = true →
    off = 0x008 ∨ (∃ w < 8, off = 0x020 + 4 * w) ∨ (∃ b < 8, ∃ w < 4, off = 0x100 + 16 * b + 4 * w) →
    step { s with agenda := .write off 4 v :: rest } =
      .next { s with agenda := rest, err := true, errcode := if s.err then s.errcode else 3 }) ∧
  (∀ (s : State) (rest : List Event) (v : Word), s.busy = true →
    step { s with agenda := .write 0x004 4 v :: rest } =
      .next { s with agenda := rest, ie := v.getLsbD 0 } ∧
    step { s with agenda := .write 0x00C 4 v :: rest } =
      .next { s with
        agenda := rest
        done := if v.getLsbD 1 then false else s.done
        err := if v.getLsbD 2 then false else s.err
        errcode := if v.getLsbD 2 then 0 else s.errcode }) ∧
  (∀ s t : State, s.busy = true → s.completing = none → s.nextIsReset = false → step s = .next t →
    t.S = s.S ∧ t.din = s.din ∧ t.pending = s.pending)

/-- R241, R249: the first error since the last clear is kept: while an error stays recorded, no step changes
its code. -/
def Obligations.FirstErrorIsKept : Prop :=
  ∀ s t : State, step s = .next t → s.err = true → t.err = true → t.errcode = s.errcode

/-- R247: a recorded error is cleared by a STATUS write with bit 2 set, by the completion of CLEAR and by
reset, and by nothing else; clearing it clears its code, and `irq` is low once DONE is 0 too. -/
def Obligations.OnlyTheseClearAnError : Prop :=
  ∀ s t : State, step s = .next t → s.err = true →
    (t.err = false ↔
      s.nextIsReset = true ∨ s.completing = some .clear ∨
        ∃ v : Word, s.nextWrite = some (.status, v) ∧ v.getLsbD 2 = true) ∧
    (t.err = false → t.errcode = 0 ∧ (t.done = false → irq t = false))

/-- R244: only writes to CMD, DIN and STATE raise an error: where a step sets ERR, it is such a write. -/
def Obligations.OnlyTheseWritesRaiseAnError : Prop :=
  ∀ s t : State, step s = .next t → s.err = false → t.err = true →
    ∃ (r : Reg) (v : Word), s.nextWrite = some (r, v) ∧
      (r = .cmd ∨ (∃ w, r = .din w) ∨ ∃ b w, r = .state b w)

/-- R33: DONE is cleared by acceptance, by a STATUS write with bit 1 set and by reset, and set by every
completion; nothing else changes it. -/
def Obligations.DoneFollowsTheCommand : Prop :=
  ∀ s t : State, step s = .next t →
    t.done =
      if s.completing.isSome then true
      else if s.nextIsReset then false
      else if s.busy = false ∧ t.busy = true then false
      else
        match s.nextWrite with
        | some (.status, v) => if v.getLsbD 1 then false else s.done
        | _ => s.done

/-- R32, R224: BUSY falls exactly at the completion and at reset; it rises exactly at the acceptance of a word
that decodes to the pending command. At most one command is pending. -/
def Obligations.OneCommandAtATime : Prop :=
  ∀ s t : State, step s = .next t →
    (s.busy = true → (t.busy = false ↔ s.completing ≠ none ∨ s.nextIsReset = true)) ∧
    (s.busy = true → t.busy = true → t.pending = s.pending) ∧
    (s.busy = false → t.busy = true →
      ∃ v : Word, s.nextWrite = some (.cmd, v) ∧ decode v = .cmd t.pending ∧
        acceptanceError t.pending s = none) ∧
    (∀ (v : Word) (i : Instr), s.busy = false → s.nextWrite = some (.cmd, v) → decode v = .cmd i →
      acceptanceError i s = none → t.busy = true ∧ t.pending = i)

/-! The flags and registers: what each step may do to them. -/

/-- R28: PHASE after a step, as its two bits: the INIT completion enters 1, ABSORB 2, FINALIZE 3, and reset and
CLEAR 0; UPDATE, ROUND, NOP and every other step leave it. -/
def Obligations.PhaseFollowsTheConstruction : Prop :=
  ∀ s t : State, step s = .next t →
    t.phase.code =
      match s.completing with
      | some .init => 1
      | some (.absorb _) => 2
      | some .finalize => 3
      | some .clear => 0
      | some .nop => s.phase.code
      | some .update => s.phase.code
      | some .round => s.phase.code
      | none => if s.nextIsReset then 0 else s.phase.code

/-- R29: TAIL after a step: ABSORB sets it when n < 32 and clears it when n = 32, INIT, FINALIZE, CLEAR and reset
clear it, and nothing else changes it. While it is set, no ABSORB is accepted: a CMD write of one records
SEQUENCE and starts nothing. -/
def Obligations.TailMarksAShortChunk : Prop :=
  (∀ (s : State) (rest : List Event) (n : BitVec 6), s.busy = false → s.tail = true →
    (Instr.absorb n).WellFormed →
    step { s with agenda := .write 0x008 4 (encode (.absorb n)) :: rest } =
      .next { s with agenda := rest, err := true, errcode := if s.err then s.errcode else 2 }) ∧
  ∀ s t : State, s.Inv → step s = .next t →
    t.tail =
      match s.completing with
      | some (.absorb n) => decide (n.toNat ≠ 32)
      | some .init => false
      | some .finalize => false
      | some .clear => false
      | some .nop => s.tail
      | some .update => s.tail
      | some .round => s.tail
      | none => if s.nextIsReset then false else s.tail

/-- R30: RAW after a step: UPDATE and an accepted STATE write set it, INIT, CLEAR and reset clear it, and
nothing else changes it. -/
def Obligations.RawMarksForeignChanges : Prop :=
  ∀ s t : State, step s = .next t →
    t.raw =
      match s.completing with
      | some .update => true
      | some .init => false
      | some .clear => false
      | some .nop => s.raw
      | some (.absorb _) => s.raw
      | some .finalize => s.raw
      | some .round => s.raw
      | none =>
        if s.nextIsReset then false
        else if s.busy then s.raw
        else
          match s.nextWrite with
          | some (.state _ _, _) => true
          | _ => s.raw

/-- R31: TAG_VALID after a step: FINALIZE sets it, INIT, CLEAR and reset clear it, and no other event changes
it. -/
def Obligations.TagValidFollowsFinalize : Prop :=
  ∀ s t : State, step s = .next t →
    t.tagValid =
      match s.completing with
      | some .finalize => true
      | some .init => false
      | some .clear => false
      | some .nop => s.tagValid
      | some (.absorb _) => s.tagValid
      | some .update => s.tagValid
      | some .round => s.tagValid
      | none => if s.nextIsReset then false else s.tagValid

/-- R22, R24 to R27, R35: which steps may change each data register and IE: S by INIT, ABSORB, FINALIZE, UPDATE,
CLEAR, reset and host STATE writes while BUSY = 0; DIN by host DIN writes while BUSY = 0, CLEAR and reset; TAG by
INIT, FINALIZE, CLEAR and reset; RNDOUT by ROUND, CLEAR and reset; ADBITS by INIT, ABSORB, CLEAR and reset; IE by
CTRL writes and reset. -/
def Obligations.RegistersChangeOnlyAsTheirRulesSay : Prop :=
  ∀ s t : State, step s = .next t → s.nextIsReset = false →
    (t.S ≠ s.S →
      (∃ n, s.completing = some (.absorb n)) ∨ s.completing = some .init ∨
      s.completing = some .finalize ∨ s.completing = some .update ∨ s.completing = some .clear ∨
      (s.busy = false ∧ ∃ b w v, s.nextWrite = some (.state b w, v))) ∧
    (t.din ≠ s.din →
      s.completing = some .clear ∨ (s.busy = false ∧ ∃ w v, s.nextWrite = some (.din w, v))) ∧
    (t.tag ≠ s.tag →
      s.completing = some .init ∨ s.completing = some .finalize ∨ s.completing = some .clear) ∧
    (t.rndout ≠ s.rndout → s.completing = some .round ∨ s.completing = some .clear) ∧
    (t.adbits ≠ s.adbits →
      (∃ n, s.completing = some (.absorb n)) ∨ s.completing = some .init ∨ s.completing = some .clear) ∧
    (t.ie ≠ s.ie → ∃ v, s.nextWrite = some (.ctrl, v))

/-- R176: in every reachable state an ABSORB counts exactly 8n bits: ADBITS never wraps. -/
def Obligations.LengthCounterNeverWraps : Prop :=
  ∀ (s t : State) (n : BitVec 6), s.Inv → s.completing = some (.absorb n) → step s = .next t →
    t.adbits.toNat = s.adbits.toNat + 8 * n.toNat

/-! The register window. -/

/-- R69, R70: a read or write is refused exactly when it is not a 32-bit access to an offset of the window
that is a multiple of 4. -/
def Obligations.OnlyAlignedWordAccessesAreAdmitted : Prop :=
  ∀ (s : State) (rest : List Event) (off : Int) (width : Nat) (v : Word),
    (width ≠ 4 ∨ off % 4 ≠ 0 ∨ off < 0 ∨ 0x1000 ≤ off →
      (∃ r, step { s with agenda := .read off width :: rest } = .refused r) ∧
      (∃ r, step { s with agenda := .write off width v :: rest } = .refused r)) ∧
    (width = 4 → off % 4 = 0 → 0 ≤ off → off < 0x1000 →
      (∃ t, step { s with agenda := .read off width :: rest } = .next t) ∧
      (∃ t, step { s with agenda := .write off width v :: rest } = .next t))

/-- R14, R60, R84: the window is the 0x1000 bytes from `BASE`, whatever multiple of 0x1000 `BASE` is: a host
address is admitted exactly when it is 4-aligned and lies in them, for a 32-bit access, and its offset is
its distance from `BASE`. -/
def Obligations.WindowLiesAtItsBase : Prop :=
  Config.base % 0x1000 = 0 ∧
  ∀ (s : State) (rest : List Event) (addr width : Nat) (v : Word),
    (width = 4 ∧ addr % 4 = 0 ∧ Config.base ≤ addr ∧ addr < Config.base + 0x1000 →
      step { s with agenda := readAt addr width :: rest } =
        .next (hostRead (addr - Config.base) { s with agenda := rest }) ∧
      step { s with agenda := writeAt addr width v :: rest } =
        .next (hostWrite (addr - Config.base) v { s with agenda := rest })) ∧
    (¬ (width = 4 ∧ addr % 4 = 0 ∧ Config.base ≤ addr ∧ addr < Config.base + 0x1000) →
      (∃ r, step { s with agenda := readAt addr width :: rest } = .refused r) ∧
      (∃ r, step { s with agenda := writeAt addr width v :: rest } = .refused r))

/-- R61, R74: each named register lies at its offset, no two share one, and the aligned offsets left over are
exactly the reserved ones. -/
def Obligations.RegisterMapIsExact : Prop :=
  (∀ (r : Reg) (off : Nat), r.offset = some off → off % 4 = 0 ∧ off < 0x1000 ∧ regAt off = r) ∧
  (∀ off : Nat, off % 4 = 0 → off < 0x1000 →
    (regAt off = .reserved ↔
      off = 0x018 ∨ off = 0x01C ∨ (0x060 ≤ off ∧ off ≤ 0x0FC) ∨ (0x180 ≤ off ∧ off ≤ 0xFFC))) ∧
  (∀ (off : Nat) (r : Reg), off % 4 = 0 → off < 0x1000 → regAt off = r → r ≠ .reserved →
    r.offset = some off)

/-- R62 to R65, R36, R43, R75: with BUSY = 0, what a read of each named register returns, byte k of word w being
byte 4w+k of the array; and a read changes nothing but the model's list of replies. -/
def Obligations.IdleReadsReturnTheRegisters : Prop :=
  ∀ (s : State) (rest : List Event), s.busy = false →
    let replyIs := fun (off : Nat) (x : Word) =>
      step { s with agenda := .read off 4 :: rest } =
        .next { s with agenda := rest, replies := (off, x) :: s.replies }
    replyIs 0x000 0x314D5343 ∧
    replyIs 0x004 (if s.ie then 1 else 0) ∧
    replyIs 0x008 0 ∧
    replyIs 0x00C (statusWord s) ∧
    (∀ x : Word, x = s.adbits.extractLsb' 0 32 → replyIs 0x010 x) ∧
    (∀ x : Word, x = s.adbits.extractLsb' 32 32 → replyIs 0x014 x) ∧
    (∀ (w : Nat) (h : w < 8) (x : Word),
      (∀ (k : Nat) (h : k < 4), x.extractLsb' (8 * k) 8 = s.din[4 * w + k]) → replyIs (0x020 + 4 * w) x) ∧
    (∀ (w : Nat) (h : w < 4) (x : Word),
      (∀ (k : Nat) (h : k < 4), x.extractLsb' (8 * k) 8 = s.tag[4 * w + k]) → replyIs (0x040 + 4 * w) x) ∧
    (∀ (w : Nat) (h : w < 4) (x : Word),
      (∀ (k : Nat) (h : k < 4), x.extractLsb' (8 * k) 8 = s.rndout[4 * w + k]) →
        replyIs (0x050 + 4 * w) x) ∧
    (∀ (b : Nat) (h : b < 8) (w : Nat) (h : w < 4) (x : Word),
      (∀ (k : Nat) (h : k < 4), x.extractLsb' (8 * k) 8 = s.S[b][4 * w + k]) →
        replyIs (0x100 + 16 * b + 4 * w) x)

/-- R77: while BUSY = 1, reads of ID, CTRL, CMD, STATUS, DIN and reserved offsets return what the register
holds; a read of a STATE, TAG, RNDOUT or ADBITS word returns the next free value, whatever it is, and
changes no register. The STATUS fields other than DONE, ERR and ERRCODE hold until the completion. -/
def Obligations.BusyReadsOfResultsAreFree : Prop :=
  (∀ s t : State, s.busy = true → s.completing = none → s.nextIsReset = false → step s = .next t →
    t.busy = true ∧ t.phase = s.phase ∧ t.tail = s.tail ∧ t.raw = s.raw ∧ t.tagValid = s.tagValid) ∧
  ∀ (s : State) (rest : List Event) (off : Nat), s.busy = true → off % 4 = 0 → off < 0x1000 →
    step { s with agenda := .read off 4 :: rest } =
      if off = 0x010 ∨ off = 0x014 ∨ (0x040 ≤ off ∧ off < 0x060) ∨ (0x100 ≤ off ∧ off < 0x180) then
        .next { s with
          agenda := rest, replies := (off, Config.freeRead s.draws) :: s.replies, draws := s.draws + 1 }
      else
        .next { s with agenda := rest, replies := (off, readReg (regAt off) s) :: s.replies }

/-- R72: a read changes no state of the core. -/
def Obligations.ReadsHaveNoSideEffects : Prop :=
  ∀ (s t : State) (rest : List Event) (off : Int) (width : Nat),
    s.agenda = .read off width :: rest → step s = .next t → t.arch = s.arch

/-- R73: with BUSY = 0, what a write to each register other than CMD does: CTRL and STATUS; a DIN or STATE word,
whose byte k goes to byte 4w+k and leaves every other byte alone; read-only and reserved words, which
ignore it. -/
def Obligations.IdleWritesReachTheirRegister : Prop :=
  ∀ (s : State) (rest : List Event) (v : Word), s.busy = false →
    let write := fun off : Nat => step { s with agenda := .write off 4 v :: rest }
    write 0x004 = .next { s with agenda := rest, ie := v.getLsbD 0 } ∧
    write 0x00C = .next { s with
      agenda := rest
      done := if v.getLsbD 1 then false else s.done
      err := if v.getLsbD 2 then false else s.err
      errcode := if v.getLsbD 2 then 0 else s.errcode } ∧
    (∀ (w : Nat) (h : w < 8),
      write (0x020 + 4 * w) = .next { s with
        agenda := rest
        din := Vector.ofFn fun j : Fin 32 =>
          if 4 * w ≤ j.val ∧ j.val < 4 * w + 4 then v.extractLsb' (8 * (j.val - 4 * w)) 8
          else s.din[j.val] }) ∧
    (∀ (b : Nat) (h : b < 8) (w : Nat) (h : w < 4),
      write (0x100 + 16 * b + 4 * w) = .next { s with
        agenda := rest
        raw := true
        S := Vector.ofFn fun c : Fin 8 => Vector.ofFn fun j : Fin 16 =>
          if c.val = b ∧ 4 * w ≤ j.val ∧ j.val < 4 * w + 4 then v.extractLsb' (8 * (j.val - 4 * w)) 8
          else s.S[c.val][j.val] }) ∧
    (∀ off : Nat, off % 4 = 0 → off < 0x1000 →
      off = 0x000 ∨ off = 0x010 ∨ off = 0x014 ∨ (0x040 ≤ off ∧ off < 0x060) ∨
        off = 0x018 ∨ off = 0x01C ∨ (0x060 ≤ off ∧ off < 0x100) ∨ 0x180 ≤ off →
      write off = .next { s with agenda := rest })

/-- R64: a host that writes a 32-byte chunk to DIN0 to DIN7 as eight little-endian words, as the `ldin`
pseudo-instruction of R99 does, puts byte j of the chunk in DIN[j], and 0x00 where fewer bytes are given, and
changes nothing else. -/
def Obligations.LoadingDinPutsEachByteInPlace : Prop :=
  ∀ (s : State) (bytes : List Byte), s.busy = false → bytes.length ≤ 32 →
    Sys2Proof.core.run 8 { s with agenda := lineEvents 0 (.ldin bytes) } =
      .next { s with agenda := [], din := Vector.ofFn fun j : Fin 32 => bytes.getD j.val 0 }

/-- R42: each bit of a STATUS read. -/
def Obligations.StatusWordBitByBit : Prop :=
  ∀ s : State,
    (statusWord s).getLsbD 0 = s.busy ∧
    (statusWord s).getLsbD 1 = s.done ∧
    (statusWord s).getLsbD 2 = s.err ∧
    (statusWord s).getLsbD 3 = false ∧
    (statusWord s).extractLsb' 4 2 =
      (match s.phase with
      | .uninit => 0
      | .initialized => 1
      | .absorbing => 2
      | .finalized => 3) ∧
    (statusWord s).getLsbD 6 = s.tail ∧
    (statusWord s).getLsbD 7 = s.raw ∧
    (statusWord s).extractLsb' 8 3 = s.errcode ∧
    (statusWord s).getLsbD 11 = s.tagValid ∧
    (statusWord s).extractLsb' 12 20 = 0

/-- R74: reserved offsets read 0 and ignore writes without an error, and so do the reserved bits of CTRL and
STATUS: they read 0, and two writes that agree in CTRL's bit 0, or in STATUS's bits 1 and 2, act the same. -/
def Obligations.ReservedWordsAndBitsAreInert : Prop :=
  (∀ (s : State) (rest : List Event) (v : Word) (off : Nat), off % 4 = 0 →
    off = 0x018 ∨ off = 0x01C ∨ (0x060 ≤ off ∧ off ≤ 0x0FC) ∨ (0x180 ≤ off ∧ off ≤ 0xFFC) →
    step { s with agenda := .read off 4 :: rest } =
      .next { s with agenda := rest, replies := (off, 0) :: s.replies } ∧
    step { s with agenda := .write off 4 v :: rest } = .next { s with agenda := rest }) ∧
  (∀ s : State, ctrlWord s &&& 0xFFFFFFFE = 0 ∧ statusWord s &&& 0xFFFFF008 = 0) ∧
  (∀ (s : State) (rest : List Event) (v u : Word), v.getLsbD 0 = u.getLsbD 0 →
    step { s with agenda := .write 0x004 4 v :: rest } = step { s with agenda := .write 0x004 4 u :: rest }) ∧
  (∀ (s : State) (rest : List Event) (v u : Word), v.getLsbD 1 = u.getLsbD 1 → v.getLsbD 2 = u.getLsbD 2 →
    step { s with agenda := .write 0x00C 4 v :: rest } = step { s with agenda := .write 0x00C 4 u :: rest })

/-- R39, R250: the interrupt line is high exactly while IE = 1 and DONE or ERR is 1. R250, R220, R280: the
acknowledge write of 6 to STATUS lowers it; an acceptance with no error recorded lowers it; and it is low after
reset. R221, R223: a completion makes it equal to IE. For CLEAR that follows R223, whose DONE raises the line,
although R250 lists CLEAR among what clears the interrupt: it is the model's reading, notes/assumptions/11.md. -/
def Obligations.InterruptLineFollowsTheFlags : Prop :=
  (∀ s : State, irq s = true ↔ s.ie = true ∧ (s.done = true ∨ s.err = true)) ∧
  (∀ (s : State) (rest : List Event),
    ∃ t, step { s with agenda := .write 0x00C 4 0x6 :: rest } = .next t ∧ irq t = false) ∧
  (∀ s t : State, step s = .next t → s.busy = false → t.busy = true → s.err = false → irq t = false) ∧
  (∀ s t : State, step s = .next t → s.completing ≠ none → irq t = s.ie) ∧
  (∀ s t : State, step s = .next t → s.nextIsReset = true → irq t = false)

/-! Reset and liveness. -/

/-- R280, R46: reset gives every field its reset value and abandons a pending command: BUSY and DONE are 0, and
STATUS, CTRL and the interrupt line are 0, and ID is the same; and nothing but reset abandons a pending command.
(PENDING, the inputs, the replies and the draws are the model's, notes/assumptions/1.md and 2.md.) -/
def Obligations.ResetGivesTheResetValues : Prop :=
  (∀ s t : State, step s = .next t → s.busy = true → t.busy = false → s.completing = none →
    s.nextIsReset = true) ∧
  ∀ (s : State) (rest : List Event), ∃ t, step { s with agenda := .reset :: rest } = .next t ∧
    t.S = Vector.replicate 8 (Vector.replicate 16 0) ∧ t.din = Vector.replicate 32 0 ∧
    t.tag = Vector.replicate 16 0 ∧ t.rndout = Vector.replicate 16 0 ∧ t.adbits = 0 ∧
    t.phase = .uninit ∧ t.tail = false ∧ t.raw = false ∧ t.tagValid = false ∧
    t.busy = false ∧ t.done = false ∧ t.err = false ∧ t.errcode = 0 ∧ t.ie = false ∧
    statusWord t = 0 ∧ ctrlWord t = 0 ∧ readReg .id t = 0x314D5343 ∧ irq t = false ∧
    t.agenda = rest

/-- R290: every accepted command completes: from any state with a command pending whose remaining inputs hold no
reset and no refused access, after at most as many steps as there are inputs comes the step that completes
that command, on the S and DIN it was accepted with. -/
def Obligations.EveryAcceptedCommandCompletes : Prop :=
  ∀ s : State, s.busy = true → (∀ e ∈ s.agenda, e ≠ .reset ∧ e.admitted = true) →
    ∃ k u t, k ≤ s.agenda.length ∧ Sys2Proof.core.run k s = .next u ∧
      u.completing = some s.pending ∧ u.S = s.S ∧ u.din = s.din ∧
      step u = .next t ∧ t.busy = false ∧ t.done = true

/-- R99: the `wait` pseudo-instruction of a script polls STATUS until BUSY = 0: its three instructions leave the
loop when the core is idle and go back to its own start while a command is pending. That the `wait` on each line has
a label of its own, and that a branch goes to the first place of its label, is the model's choice
(notes/assumptions/12.md); R99 writes one name for all. -/
def Obligations.WaitLoopsWhileBusy : Prop :=
  ∀ (y : System) (k p : Nat), y.host.pc = p →
    (∀ j < 3, y.host.code[p + j]? = (expandLine k .wait)[j]?) →
    (∀ j < p, y.host.code[j]? ≠ some (.label (.wait k))) →
    ∃ y1 y2 y3, y.turn .host = .next y1 ∧ y1.turn .host = .next y2 ∧ y2.turn .host = .next y3 ∧
      y3.core.arch = y.core.arch ∧
      y3.host.pc = (if y.core.busy then p else p + 3)

/-- R4, R20, R99, R100: a turn of the system brings at most one access or completion to the core, as one step of it:
the write or read that the host's instruction names, the engine's completion, or reset; the host's branches and
labels bring none. So a run of a script beside the core is a run of the core on the script's accesses. -/
def Obligations.SystemTurnIsAtMostOneStep : Prop :=
  ∀ (a : Agent) (y z : System), y.turn a = .next z →
    match y.event a with
    | some e => step { y.core with agenda := e :: y.core.agenda } = .next z.core
    | none => z.core = y.core

/-- R284 step 6: the driver's check of STATUS goes on to the tag exactly when ERR = 0, TAG_VALID = 1 and RAW = 0, and
otherwise to the first `fail` label, without changing the core's registers. (That a failed check goes there is the
model's choice, notes/assumptions/15.md.) -/
def Obligations.DriverChecksTheStatus : Prop :=
  ∀ (y : System) (k p q : Nat), y.host.pc = p →
    (∀ j < 4, y.host.code[p + j]? = (expandFrom k checkLines)[j]?) →
    y.host.code[q]? = some (.label (.named "fail")) →
    (∀ j < q, y.host.code[j]? ≠ some (.label (.named "fail"))) →
    ∃ n z, n ≤ 4 ∧ y.hostTurns n = .next z ∧ z.core.arch = y.core.arch ∧
      z.host.pc =
        (if y.core.err = false ∧ y.core.tagValid = true ∧ y.core.raw = false then p + 4 else q)

/-! Whole-machine statements. -/

/-- The invariant of reachable states holds after reset. -/
def Obligations.ResetMeetsTheInvariant : Prop := State.reset.Inv

/-- Every step keeps the invariant of reachable states. -/
def Obligations.StepKeepsTheInvariant : Prop :=
  ∀ s t : State, s.Inv → step s = .next t → t.Inv

/-- R21, R38: the replies, the draws and so the unspecified values that reads return never reach the core: two
states with the same registers and the same inputs have, after a step, the same registers. -/
def Obligations.UnspecifiedReadsNeverReachTheCore : Prop :=
  ∀ s u : State, s.arch = u.arch → s.agenda = u.agenda →
    (∀ t, step s = .next t → ∃ t', step u = .next t' ∧ t'.arch = t.arch ∧ t'.agenda = t.agenda) ∧
    (∀ r, step s = .refused r → step u = .refused r)

/-- R183, one step: whatever the next step is, if the construction in progress has absorbed exactly the
bytes b before it, then after it the construction in progress, if one is, has absorbed exactly the bytes that
`absorbedAfter` says. -/
def Obligations.StepKeepsTheConstruction : Prop :=
  ∀ (s t : State) (g : Option (List Byte)), s.Inv → (∀ b, g = some b → Absorbed b s) →
    step s = .next t → ∀ b, absorbedAfter g s = some b → Absorbed b t

/-- R183: in any run, with any interleaving of host accesses and completions, if FINALIZE completes a
construction that an INIT began and that absorbed the bytes b, with no UPDATE, STATE write, CLEAR or reset
between, then TAG = Checksum(b), TAG_VALID = 1 and RAW = 0. -/
def Obligations.TagIsTheChecksumOfTheAbsorbedBytes : Prop :=
  ∀ (k : Nat) (s u : State) (b : List Byte), s.Inv → watch k none s = some (some b, u) →
    u.completing = some .finalize →
    ∃ t, step u = .next t ∧ t.tag = checksum b ∧ t.tagValid = true ∧ t.raw = false ∧
      b.length ≤ 2 ^ 61 - 1

/-- R284, steps 2 to 8: the driver's accesses compute the checksum, for every input of at most 2^61 − 1 bytes, every
idle core, every number of vain polls in each `wait`, whatever stands in DIN beyond the input's bytes and however
many DIN words are written for it, with or without the CLEAR at the end. The STATUS of step 6 has TAG_VALID = 1,
RAW = 0 and the ERR the core began with, the four words read next are the tag's bytes in order, and the end state
has the tag, or after CLEAR nothing but IE and DONE. The accesses are those of a driver whose check passes. That the
CLEAR is followed by a `wait`, and that each `wait` is some polls, the completion and one more poll, are the model's
(notes/assumptions/1.md, 12.md and 15.md). -/
def Obligations.DriverComputesTheChecksum : Prop :=
  ∀ (s : State) (polls : Nat → Nat) (ch : DriverChoice) (b : List Byte),
    s.busy = false → b.length ≤ 2 ^ 61 - 1 →
    ∃ t, Sys2Proof.core.run (driverEvents polls ch b).length { s with agenda := driverEvents polls ch b } =
        .next t ∧
      t.agenda = [] ∧ t.busy = false ∧ t.done = true ∧ t.ie = s.ie ∧
      (ch.erase = false →
        t.tag = checksum b ∧ t.tagValid = true ∧ t.raw = false ∧ t.err = s.err ∧ t.errcode = s.errcode) ∧
      (ch.erase = true → statusWord t = 0x00000002 ∧
        t.S = Vector.replicate 8 zeroBlock ∧ t.din = Vector.replicate 32 0 ∧ t.tag = zeroBlock ∧ t.adbits = 0) ∧
      ∃ (later earlier : List (Nat × Word)) (w0 w1 w2 w3 x : Word),
        t.replies = later ++ [(0x04C, w3), (0x048, w2), (0x044, w1), (0x040, w0), (0x00C, x)] ++ earlier ∧
        (∀ r ∈ later, r.1 = 0x00C) ∧
        x.getLsbD 2 = s.err ∧ x.getLsbD 11 = true ∧ x.getLsbD 7 = false ∧
        ∀ (j : Nat) (h : j < 16),
          (checksum b)[j] = ([w0, w1, w2, w3].getD (j / 4) 0).extractLsb' (8 * (j % 4)) 8
end

