-- ==== Sys2Proof/Laws/Bytes.lean ====
section
/-! SUPPORT. Laws of the byte operations: packing words, reading and writing the words of a byte array, and the
blocks taken from a chunk. -/

namespace Sys2Proof.Machine

/-- Words with equal bytes are equal. -/
theorem word_ext {x y : Word} (h : ∀ k < 4, wordByte x k = wordByte y k) : x = y := by
  apply BitVec.eq_of_getLsbD_eq
  intro i hi
  have := congrArg (fun b => b.getLsbD (i % 8)) (h (i / 8) (by omega))
  simpa only [wordByte, BitVec.getLsbD_extractLsb', show i % 8 < 8 by omega, decide_true, Bool.true_and,
    Nat.div_add_mod] using this

/-- R73: which byte of an array a word write changes. -/
theorem getElem_setWord {n : Nat} (B : Vector Byte n) (w : Nat) (v : Word) (j : Nat) (h : j < n) :
    (setWord B w v)[j] = if j / 4 = w then wordByte v (j % 4) else B[j] := by
  simp [setWord]

/-- R62: byte k of a packed word is the k-th byte packed. -/
theorem wordByte_packWord (b : Nat → Byte) (k : Nat) (h : k < 4) :
    wordByte (packWord (b 0) (b 1) (b 2) (b 3)) k = b k := by
  ext i hi
  have hk : k = 0 ∨ k = 1 ∨ k = 2 ∨ k = 3 := by omega
  have hi' : i = 0 ∨ i = 1 ∨ i = 2 ∨ i = 3 ∨ i = 4 ∨ i = 5 ∨ i = 6 ∨ i = 7 := by omega
  rcases hk with rfl | rfl | rfl | rfl <;>
    rcases hi' with rfl | rfl | rfl | rfl | rfl | rfl | rfl | rfl <;> simp [wordByte, packWord]

/-- R62: byte k of word w of an array is its byte 4w+k. -/
theorem wordByte_getWord {n : Nat} (B : Vector Byte n) (w k : Nat) (h : 4 * w + 3 < n) (hk : k < 4) :
    wordByte (getWord B w h) k = B[4 * w + k] := by
  have := wordByte_packWord (fun k => if h : 4 * w + k < n then B[4 * w + k] else 0) k hk
  simpa [getWord, show 4 * w < n by omega, show 4 * w + 1 < n by omega,
    show 4 * w + 2 < n by omega, h, show 4 * w + k < n by omega] using this

/-- A word reads back as written. -/
theorem getWord_setWord_same {n : Nat} (B : Vector Byte n) (w : Nat) (v : Word) (h : 4 * w + 3 < n) :
    getWord (setWord B w v) w h = v := by
  apply word_ext
  intro k hk
  rw [wordByte_getWord _ _ _ _ hk, getElem_setWord, if_pos (by omega), show (4 * w + k) % 4 = k by omega]

/-- A word write leaves every other word alone. -/
theorem getWord_setWord_other {n : Nat} (B : Vector Byte n) (w u : Nat) (v : Word) (h : 4 * u + 3 < n)
    (hne : u ≠ w) : getWord (setWord B w v) u h = getWord B u h := by
  apply word_ext
  intro k hk
  rw [wordByte_getWord _ _ _ _ hk, wordByte_getWord _ _ _ _ hk, getElem_setWord, if_neg (by omega)]

@[simp] theorem getElem_firstBlock (d : Chunk) (j : Nat) (h : j < 16) :
    (firstBlock d)[j] = d[j] := by simp [firstBlock]

@[simp] theorem getElem_secondBlock (d : Chunk) (j : Nat) (h : j < 16) :
    (secondBlock d)[j] = d[16 + j] := by simp [secondBlock]

@[simp] theorem getElem_padChunk (d : Chunk) (n j : Nat) (h : j < 32) :
    (padChunk d n)[j] = if j < n then d[j] else 0 := by simp [padChunk]

@[simp] theorem getElem_xorBlock (A B : Block) (j : Nat) (h : j < 16) :
    (xorBlock A B)[j] = A[j] ^^^ B[j] := by simp [xorBlock]

/-- Block exclusive-or is associative. -/
theorem xorBlock_assoc (A B D : Block) : xorBlock (xorBlock A B) D = xorBlock A (xorBlock B D) := by
  ext j h; simp [BitVec.xor_assoc]

/-- Block exclusive-or is commutative. -/
theorem xorBlock_comm (A B : Block) : xorBlock A B = xorBlock B A := by
  ext j h; simp [BitVec.xor_comm]

@[simp] theorem xorBlock_zero (A : Block) : xorBlock A zeroBlock = A := by
  ext j h; simp [zeroBlock]

@[simp] theorem xorBlock_self (A : Block) : xorBlock A A = zeroBlock := by
  ext j h; simp [zeroBlock]

end Sys2Proof.Machine
end

