-- ==== Sys2Proof/Laws/Checksum.lean ====
section
/-! SUPPORT. Laws of the three layers: the key of a round is xored in last, repeated updates compose, and the
absorption of an input grows chunk by chunk (40_round_function.md R127; 42_checksum.md R174, R182). -/

namespace Sys2Proof.Machine

/-- R127: a block xored into the key is xored into the round's result. -/
theorem aesRound_xor_key (S K M : Block) :
    aesRound S (xorBlock K M) = xorBlock (aesRound S K) M := by
  simp only [aesRound, xorBlock_assoc]

/-- R13: repeating j + k times is repeating k times after j times. -/
theorem repeatUpdate_add (j k : Nat) (M0 M1 : Block) (S : Blocks) :
    repeatUpdate (j + k) M0 M1 S = repeatUpdate k M0 M1 (repeatUpdate j M0 M1 S) := by
  induction j generalizing S with
  | zero => simp [repeatUpdate]
  | succ j ih => rw [show j + 1 + k = (j + k) + 1 by omega]; simp only [repeatUpdate]; exact ih _

/-- R174: a chunk that lies in the first part of an input is that part's. -/
theorem chunkOf_append_left (b d : List Byte) (i : Nat) (h : 32 * (i + 1) ≤ b.length) :
    chunkOf (b ++ d) i = chunkOf b i := by
  apply Vector.ext
  intro j hj
  simp only [chunkOf, Vector.getElem_ofFn, List.getD_eq_getElem?_getD]
  rw [List.getElem?_append_left (show 32 * i + j < b.length by omega)]

/-- R174: after whole chunks, the next chunk of an input is the first of what follows. -/
theorem chunkOf_append_last (b d : List Byte) (i : Nat) (h : b.length = 32 * i) :
    chunkOf (b ++ d) i = chunkOf d 0 := by
  apply Vector.ext
  intro j hj
  simp only [chunkOf, Vector.getElem_ofFn, List.getD_eq_getElem?_getD]
  rw [List.getElem?_append_right (by omega)]
  congr 3
  omega

/-- R182: absorbing a further chunk of at most 32 bytes after whole chunks. -/
theorem absorbAll_append (b d : List Byte) (h : b.length % 32 = 0) (hlo : 1 ≤ d.length)
    (hhi : d.length ≤ 32) : absorbAll (b ++ d) = absorbChunk (absorbAll b) (chunkOf d 0) := by
  have hk : chunkCount (b ++ d) = chunkCount b + 1 := by simp [chunkCount]; omega
  have hb : b.length = 32 * chunkCount b := by simp [chunkCount]; omega
  unfold absorbAll
  rw [hk, List.range_succ, List.foldl_append, List.foldl_cons, List.foldl_nil,
    chunkOf_append_last b d _ hb]
  refine congrArg (fun S => absorbChunk S (chunkOf d 0)) (List.foldl_ext _ _ _ fun S i hi => ?_)
  have := List.mem_range.1 hi
  rw [chunkOf_append_left b d i (by omega)]

/-- R174, R178: the chunk of the first n bytes of DIN is DIN padded after n bytes. -/
theorem chunkOf_take (d : Chunk) (n : Nat) : chunkOf (d.toList.take n) 0 = padChunk d n := by
  apply Vector.ext
  intro j hj
  simp only [chunkOf, Vector.getElem_ofFn, getElem_padChunk, List.getD_eq_getElem?_getD]
  simp [List.getElem?_take]
  split <;> simp [hj]

end Sys2Proof.Machine
end

