-- ==== Sys2Proof/Laws/PerInstr.lean ====
section
/-! SUPPORT. Statements about each command as syntax, one lemma for each constructor of `Instr`. -/

namespace Sys2Proof.Laws

/-- R91: the word of a command has its opcode in bits 3:0, its LEN in bits 13:8, and zero in RSV0 and RSV1. -/
def EncodingLayout.Statement (i : Instr) : Prop :=
  opField (encode i) = opcodeOf i ∧ lenField (encode i) = lenOf i ∧ rsv0Field (encode i) = 0 ∧
    rsv1Field (encode i) = 0

theorem EncodingLayout.nop : EncodingLayout.Statement .nop := by
  unfold EncodingLayout.Statement; decide

theorem EncodingLayout.init : EncodingLayout.Statement .init := by
  unfold EncodingLayout.Statement; decide

theorem EncodingLayout.absorb (n : BitVec 6) : EncodingLayout.Statement (.absorb n) := by
  unfold EncodingLayout.Statement; revert n; decide

theorem EncodingLayout.finalize : EncodingLayout.Statement .finalize := by
  unfold EncodingLayout.Statement; decide

theorem EncodingLayout.update : EncodingLayout.Statement .update := by
  unfold EncodingLayout.Statement; decide

theorem EncodingLayout.round : EncodingLayout.Statement .round := by
  unfold EncodingLayout.Statement; decide

theorem EncodingLayout.clear : EncodingLayout.Statement .clear := by
  unfold EncodingLayout.Statement; decide

end Sys2Proof.Laws
end

