-- ==== Sys2Proof/Laws/State.lean ====
section
/-! SUPPORT. What each named update of the state leaves in each field, one lemma for each, so that no later proof
unfolds a record update. -/

namespace Sys2Proof.Machine

/-! `finish`. -/

@[simp] theorem finish_S (s : State) :
    (finish s).S = s.S := rfl

@[simp] theorem finish_din (s : State) :
    (finish s).din = s.din := rfl

@[simp] theorem finish_tag (s : State) :
    (finish s).tag = s.tag := rfl

@[simp] theorem finish_rndout (s : State) :
    (finish s).rndout = s.rndout := rfl

@[simp] theorem finish_adbits (s : State) :
    (finish s).adbits = s.adbits := rfl

@[simp] theorem finish_phase (s : State) :
    (finish s).phase = s.phase := rfl

@[simp] theorem finish_tail (s : State) :
    (finish s).tail = s.tail := rfl

@[simp] theorem finish_raw (s : State) :
    (finish s).raw = s.raw := rfl

@[simp] theorem finish_tagValid (s : State) :
    (finish s).tagValid = s.tagValid := rfl

@[simp] theorem finish_busy (s : State) :
    (finish s).busy = false := rfl

@[simp] theorem finish_done (s : State) :
    (finish s).done = true := rfl

@[simp] theorem finish_err (s : State) :
    (finish s).err = s.err := rfl

@[simp] theorem finish_errcode (s : State) :
    (finish s).errcode = s.errcode := rfl

@[simp] theorem finish_ie (s : State) :
    (finish s).ie = s.ie := rfl

@[simp] theorem finish_pending (s : State) :
    (finish s).pending = s.pending := rfl

@[simp] theorem finish_agenda (s : State) :
    (finish s).agenda = s.agenda := rfl

@[simp] theorem finish_replies (s : State) :
    (finish s).replies = s.replies := rfl

@[simp] theorem finish_draws (s : State) :
    (finish s).draws = s.draws := rfl

/-! `beginCommand`. -/

@[simp] theorem beginCommand_S (i : Instr) (s : State) :
    (beginCommand i s).S = s.S := rfl

@[simp] theorem beginCommand_din (i : Instr) (s : State) :
    (beginCommand i s).din = s.din := rfl

@[simp] theorem beginCommand_tag (i : Instr) (s : State) :
    (beginCommand i s).tag = s.tag := rfl

@[simp] theorem beginCommand_rndout (i : Instr) (s : State) :
    (beginCommand i s).rndout = s.rndout := rfl

@[simp] theorem beginCommand_adbits (i : Instr) (s : State) :
    (beginCommand i s).adbits = s.adbits := rfl

@[simp] theorem beginCommand_phase (i : Instr) (s : State) :
    (beginCommand i s).phase = s.phase := rfl

@[simp] theorem beginCommand_tail (i : Instr) (s : State) :
    (beginCommand i s).tail = s.tail := rfl

@[simp] theorem beginCommand_raw (i : Instr) (s : State) :
    (beginCommand i s).raw = s.raw := rfl

@[simp] theorem beginCommand_tagValid (i : Instr) (s : State) :
    (beginCommand i s).tagValid = s.tagValid := rfl

@[simp] theorem beginCommand_busy (i : Instr) (s : State) :
    (beginCommand i s).busy = true := rfl

@[simp] theorem beginCommand_done (i : Instr) (s : State) :
    (beginCommand i s).done = false := rfl

@[simp] theorem beginCommand_err (i : Instr) (s : State) :
    (beginCommand i s).err = s.err := rfl

@[simp] theorem beginCommand_errcode (i : Instr) (s : State) :
    (beginCommand i s).errcode = s.errcode := rfl

@[simp] theorem beginCommand_ie (i : Instr) (s : State) :
    (beginCommand i s).ie = s.ie := rfl

@[simp] theorem beginCommand_pending (i : Instr) (s : State) :
    (beginCommand i s).pending = i := rfl

@[simp] theorem beginCommand_agenda (i : Instr) (s : State) :
    (beginCommand i s).agenda = s.agenda := rfl

@[simp] theorem beginCommand_replies (i : Instr) (s : State) :
    (beginCommand i s).replies = s.replies := rfl

@[simp] theorem beginCommand_draws (i : Instr) (s : State) :
    (beginCommand i s).draws = s.draws := rfl

/-! `raiseError`. -/

@[simp] theorem raiseError_S (e : ErrorCode) (s : State) :
    (raiseError e s).S = s.S := rfl

@[simp] theorem raiseError_din (e : ErrorCode) (s : State) :
    (raiseError e s).din = s.din := rfl

@[simp] theorem raiseError_tag (e : ErrorCode) (s : State) :
    (raiseError e s).tag = s.tag := rfl

@[simp] theorem raiseError_rndout (e : ErrorCode) (s : State) :
    (raiseError e s).rndout = s.rndout := rfl

@[simp] theorem raiseError_adbits (e : ErrorCode) (s : State) :
    (raiseError e s).adbits = s.adbits := rfl

@[simp] theorem raiseError_phase (e : ErrorCode) (s : State) :
    (raiseError e s).phase = s.phase := rfl

@[simp] theorem raiseError_tail (e : ErrorCode) (s : State) :
    (raiseError e s).tail = s.tail := rfl

@[simp] theorem raiseError_raw (e : ErrorCode) (s : State) :
    (raiseError e s).raw = s.raw := rfl

@[simp] theorem raiseError_tagValid (e : ErrorCode) (s : State) :
    (raiseError e s).tagValid = s.tagValid := rfl

@[simp] theorem raiseError_busy (e : ErrorCode) (s : State) :
    (raiseError e s).busy = s.busy := rfl

@[simp] theorem raiseError_done (e : ErrorCode) (s : State) :
    (raiseError e s).done = s.done := rfl

@[simp] theorem raiseError_err (e : ErrorCode) (s : State) :
    (raiseError e s).err = true := rfl

@[simp] theorem raiseError_errcode (e : ErrorCode) (s : State) :
    (raiseError e s).errcode = (if s.err then s.errcode else e.code) := rfl

@[simp] theorem raiseError_ie (e : ErrorCode) (s : State) :
    (raiseError e s).ie = s.ie := rfl

@[simp] theorem raiseError_pending (e : ErrorCode) (s : State) :
    (raiseError e s).pending = s.pending := rfl

@[simp] theorem raiseError_agenda (e : ErrorCode) (s : State) :
    (raiseError e s).agenda = s.agenda := rfl

@[simp] theorem raiseError_replies (e : ErrorCode) (s : State) :
    (raiseError e s).replies = s.replies := rfl

@[simp] theorem raiseError_draws (e : ErrorCode) (s : State) :
    (raiseError e s).draws = s.draws := rfl

/-! `clearError`. -/

@[simp] theorem clearError_S (s : State) :
    (clearError s).S = s.S := rfl

@[simp] theorem clearError_din (s : State) :
    (clearError s).din = s.din := rfl

@[simp] theorem clearError_tag (s : State) :
    (clearError s).tag = s.tag := rfl

@[simp] theorem clearError_rndout (s : State) :
    (clearError s).rndout = s.rndout := rfl

@[simp] theorem clearError_adbits (s : State) :
    (clearError s).adbits = s.adbits := rfl

@[simp] theorem clearError_phase (s : State) :
    (clearError s).phase = s.phase := rfl

@[simp] theorem clearError_tail (s : State) :
    (clearError s).tail = s.tail := rfl

@[simp] theorem clearError_raw (s : State) :
    (clearError s).raw = s.raw := rfl

@[simp] theorem clearError_tagValid (s : State) :
    (clearError s).tagValid = s.tagValid := rfl

@[simp] theorem clearError_busy (s : State) :
    (clearError s).busy = s.busy := rfl

@[simp] theorem clearError_done (s : State) :
    (clearError s).done = s.done := rfl

@[simp] theorem clearError_err (s : State) :
    (clearError s).err = false := rfl

@[simp] theorem clearError_errcode (s : State) :
    (clearError s).errcode = 0 := rfl

@[simp] theorem clearError_ie (s : State) :
    (clearError s).ie = s.ie := rfl

@[simp] theorem clearError_pending (s : State) :
    (clearError s).pending = s.pending := rfl

@[simp] theorem clearError_agenda (s : State) :
    (clearError s).agenda = s.agenda := rfl

@[simp] theorem clearError_replies (s : State) :
    (clearError s).replies = s.replies := rfl

@[simp] theorem clearError_draws (s : State) :
    (clearError s).draws = s.draws := rfl

/-! `resetCore`. -/

@[simp] theorem resetCore_S (s : State) :
    (resetCore s).S = State.reset.S := rfl

@[simp] theorem resetCore_din (s : State) :
    (resetCore s).din = State.reset.din := rfl

@[simp] theorem resetCore_tag (s : State) :
    (resetCore s).tag = State.reset.tag := rfl

@[simp] theorem resetCore_rndout (s : State) :
    (resetCore s).rndout = State.reset.rndout := rfl

@[simp] theorem resetCore_adbits (s : State) :
    (resetCore s).adbits = State.reset.adbits := rfl

@[simp] theorem resetCore_phase (s : State) :
    (resetCore s).phase = State.reset.phase := rfl

@[simp] theorem resetCore_tail (s : State) :
    (resetCore s).tail = State.reset.tail := rfl

@[simp] theorem resetCore_raw (s : State) :
    (resetCore s).raw = State.reset.raw := rfl

@[simp] theorem resetCore_tagValid (s : State) :
    (resetCore s).tagValid = State.reset.tagValid := rfl

@[simp] theorem resetCore_busy (s : State) :
    (resetCore s).busy = State.reset.busy := rfl

@[simp] theorem resetCore_done (s : State) :
    (resetCore s).done = State.reset.done := rfl

@[simp] theorem resetCore_err (s : State) :
    (resetCore s).err = State.reset.err := rfl

@[simp] theorem resetCore_errcode (s : State) :
    (resetCore s).errcode = State.reset.errcode := rfl

@[simp] theorem resetCore_ie (s : State) :
    (resetCore s).ie = State.reset.ie := rfl

@[simp] theorem resetCore_pending (s : State) :
    (resetCore s).pending = State.reset.pending := rfl

@[simp] theorem resetCore_agenda (s : State) :
    (resetCore s).agenda = s.agenda := rfl

@[simp] theorem resetCore_replies (s : State) :
    (resetCore s).replies = s.replies := rfl

@[simp] theorem resetCore_draws (s : State) :
    (resetCore s).draws = s.draws := rfl

/-! `writeStatus`. -/

@[simp] theorem writeStatus_S (v : Word) (s : State) :
    (writeStatus v s).S = s.S := by
  unfold writeStatus; split <;> split <;> rfl

@[simp] theorem writeStatus_din (v : Word) (s : State) :
    (writeStatus v s).din = s.din := by
  unfold writeStatus; split <;> split <;> rfl

@[simp] theorem writeStatus_tag (v : Word) (s : State) :
    (writeStatus v s).tag = s.tag := by
  unfold writeStatus; split <;> split <;> rfl

@[simp] theorem writeStatus_rndout (v : Word) (s : State) :
    (writeStatus v s).rndout = s.rndout := by
  unfold writeStatus; split <;> split <;> rfl

@[simp] theorem writeStatus_adbits (v : Word) (s : State) :
    (writeStatus v s).adbits = s.adbits := by
  unfold writeStatus; split <;> split <;> rfl

@[simp] theorem writeStatus_phase (v : Word) (s : State) :
    (writeStatus v s).phase = s.phase := by
  unfold writeStatus; split <;> split <;> rfl

@[simp] theorem writeStatus_tail (v : Word) (s : State) :
    (writeStatus v s).tail = s.tail := by
  unfold writeStatus; split <;> split <;> rfl

@[simp] theorem writeStatus_raw (v : Word) (s : State) :
    (writeStatus v s).raw = s.raw := by
  unfold writeStatus; split <;> split <;> rfl

@[simp] theorem writeStatus_tagValid (v : Word) (s : State) :
    (writeStatus v s).tagValid = s.tagValid := by
  unfold writeStatus; split <;> split <;> rfl

@[simp] theorem writeStatus_busy (v : Word) (s : State) :
    (writeStatus v s).busy = s.busy := by
  unfold writeStatus; split <;> split <;> rfl

@[simp] theorem writeStatus_done (v : Word) (s : State) :
    (writeStatus v s).done = (if v.getLsbD 1 then false else s.done) := by
  unfold writeStatus; split <;> split <;> rfl

@[simp] theorem writeStatus_err (v : Word) (s : State) :
    (writeStatus v s).err = (if v.getLsbD 2 then false else s.err) := by
  unfold writeStatus; split <;> split <;> rfl

@[simp] theorem writeStatus_errcode (v : Word) (s : State) :
    (writeStatus v s).errcode = (if v.getLsbD 2 then 0 else s.errcode) := by
  unfold writeStatus; split <;> split <;> rfl

@[simp] theorem writeStatus_ie (v : Word) (s : State) :
    (writeStatus v s).ie = s.ie := by
  unfold writeStatus; split <;> split <;> rfl

@[simp] theorem writeStatus_pending (v : Word) (s : State) :
    (writeStatus v s).pending = s.pending := by
  unfold writeStatus; split <;> split <;> rfl

@[simp] theorem writeStatus_agenda (v : Word) (s : State) :
    (writeStatus v s).agenda = s.agenda := by
  unfold writeStatus; split <;> split <;> rfl

@[simp] theorem writeStatus_replies (v : Word) (s : State) :
    (writeStatus v s).replies = s.replies := by
  unfold writeStatus; split <;> split <;> rfl

@[simp] theorem writeStatus_draws (v : Word) (s : State) :
    (writeStatus v s).draws = s.draws := by
  unfold writeStatus; split <;> split <;> rfl

/-! `writeDin`. -/

@[simp] theorem writeDin_S (w : Fin 8) (v : Word) (s : State) :
    (writeDin w v s).S = s.S := by
  unfold writeDin; split <;> simp_all

@[simp] theorem writeDin_din (w : Fin 8) (v : Word) (s : State) :
    (writeDin w v s).din = (if s.busy then s.din else setWord s.din w.val v) := by
  unfold writeDin; split <;> simp_all

@[simp] theorem writeDin_tag (w : Fin 8) (v : Word) (s : State) :
    (writeDin w v s).tag = s.tag := by
  unfold writeDin; split <;> rfl

@[simp] theorem writeDin_rndout (w : Fin 8) (v : Word) (s : State) :
    (writeDin w v s).rndout = s.rndout := by
  unfold writeDin; split <;> rfl

@[simp] theorem writeDin_adbits (w : Fin 8) (v : Word) (s : State) :
    (writeDin w v s).adbits = s.adbits := by
  unfold writeDin; split <;> rfl

@[simp] theorem writeDin_phase (w : Fin 8) (v : Word) (s : State) :
    (writeDin w v s).phase = s.phase := by
  unfold writeDin; split <;> rfl

@[simp] theorem writeDin_tail (w : Fin 8) (v : Word) (s : State) :
    (writeDin w v s).tail = s.tail := by
  unfold writeDin; split <;> rfl

@[simp] theorem writeDin_raw (w : Fin 8) (v : Word) (s : State) :
    (writeDin w v s).raw = s.raw := by
  unfold writeDin; split <;> simp_all

@[simp] theorem writeDin_tagValid (w : Fin 8) (v : Word) (s : State) :
    (writeDin w v s).tagValid = s.tagValid := by
  unfold writeDin; split <;> rfl

@[simp] theorem writeDin_busy (w : Fin 8) (v : Word) (s : State) :
    (writeDin w v s).busy = s.busy := by
  unfold writeDin; split <;> rfl

@[simp] theorem writeDin_done (w : Fin 8) (v : Word) (s : State) :
    (writeDin w v s).done = s.done := by
  unfold writeDin; split <;> rfl

@[simp] theorem writeDin_err (w : Fin 8) (v : Word) (s : State) :
    (writeDin w v s).err = (s.busy || s.err) := by
  unfold writeDin; split <;> simp_all

@[simp] theorem writeDin_errcode (w : Fin 8) (v : Word) (s : State) :
    (writeDin w v s).errcode = (if s.busy then (if s.err then s.errcode else 3) else s.errcode) := by
  unfold writeDin; split <;> simp_all [ErrorCode.code]

@[simp] theorem writeDin_ie (w : Fin 8) (v : Word) (s : State) :
    (writeDin w v s).ie = s.ie := by
  unfold writeDin; split <;> rfl

@[simp] theorem writeDin_pending (w : Fin 8) (v : Word) (s : State) :
    (writeDin w v s).pending = s.pending := by
  unfold writeDin; split <;> rfl

@[simp] theorem writeDin_agenda (w : Fin 8) (v : Word) (s : State) :
    (writeDin w v s).agenda = s.agenda := by
  unfold writeDin; split <;> rfl

@[simp] theorem writeDin_replies (w : Fin 8) (v : Word) (s : State) :
    (writeDin w v s).replies = s.replies := by
  unfold writeDin; split <;> rfl

@[simp] theorem writeDin_draws (w : Fin 8) (v : Word) (s : State) :
    (writeDin w v s).draws = s.draws := by
  unfold writeDin; split <;> rfl

/-! `writeState`. -/

@[simp] theorem writeState_S (b : Fin 8) (w : Fin 4) (v : Word) (s : State) :
    (writeState b w v s).S = (if s.busy then s.S else s.S.set b.val (setWord s.S[b] w.val v)) := by
  unfold writeState; split <;> simp_all

@[simp] theorem writeState_din (b : Fin 8) (w : Fin 4) (v : Word) (s : State) :
    (writeState b w v s).din = s.din := by
  unfold writeState; split <;> simp_all

@[simp] theorem writeState_tag (b : Fin 8) (w : Fin 4) (v : Word) (s : State) :
    (writeState b w v s).tag = s.tag := by
  unfold writeState; split <;> rfl

@[simp] theorem writeState_rndout (b : Fin 8) (w : Fin 4) (v : Word) (s : State) :
    (writeState b w v s).rndout = s.rndout := by
  unfold writeState; split <;> rfl

@[simp] theorem writeState_adbits (b : Fin 8) (w : Fin 4) (v : Word) (s : State) :
    (writeState b w v s).adbits = s.adbits := by
  unfold writeState; split <;> rfl

@[simp] theorem writeState_phase (b : Fin 8) (w : Fin 4) (v : Word) (s : State) :
    (writeState b w v s).phase = s.phase := by
  unfold writeState; split <;> rfl

@[simp] theorem writeState_tail (b : Fin 8) (w : Fin 4) (v : Word) (s : State) :
    (writeState b w v s).tail = s.tail := by
  unfold writeState; split <;> rfl

@[simp] theorem writeState_raw (b : Fin 8) (w : Fin 4) (v : Word) (s : State) :
    (writeState b w v s).raw = (!s.busy || s.raw) := by
  unfold writeState; split <;> simp_all

@[simp] theorem writeState_tagValid (b : Fin 8) (w : Fin 4) (v : Word) (s : State) :
    (writeState b w v s).tagValid = s.tagValid := by
  unfold writeState; split <;> rfl

@[simp] theorem writeState_busy (b : Fin 8) (w : Fin 4) (v : Word) (s : State) :
    (writeState b w v s).busy = s.busy := by
  unfold writeState; split <;> rfl

@[simp] theorem writeState_done (b : Fin 8) (w : Fin 4) (v : Word) (s : State) :
    (writeState b w v s).done = s.done := by
  unfold writeState; split <;> rfl

@[simp] theorem writeState_err (b : Fin 8) (w : Fin 4) (v : Word) (s : State) :
    (writeState b w v s).err = (s.busy || s.err) := by
  unfold writeState; split <;> simp_all

@[simp] theorem writeState_errcode (b : Fin 8) (w : Fin 4) (v : Word) (s : State) :
    (writeState b w v s).errcode = (if s.busy then (if s.err then s.errcode else 3) else s.errcode) := by
  unfold writeState; split <;> simp_all [ErrorCode.code]

@[simp] theorem writeState_ie (b : Fin 8) (w : Fin 4) (v : Word) (s : State) :
    (writeState b w v s).ie = s.ie := by
  unfold writeState; split <;> rfl

@[simp] theorem writeState_pending (b : Fin 8) (w : Fin 4) (v : Word) (s : State) :
    (writeState b w v s).pending = s.pending := by
  unfold writeState; split <;> rfl

@[simp] theorem writeState_agenda (b : Fin 8) (w : Fin 4) (v : Word) (s : State) :
    (writeState b w v s).agenda = s.agenda := by
  unfold writeState; split <;> rfl

@[simp] theorem writeState_replies (b : Fin 8) (w : Fin 4) (v : Word) (s : State) :
    (writeState b w v s).replies = s.replies := by
  unfold writeState; split <;> rfl

@[simp] theorem writeState_draws (b : Fin 8) (w : Fin 4) (v : Word) (s : State) :
    (writeState b w v s).draws = s.draws := by
  unfold writeState; split <;> rfl

/-! `hostRead`. -/

@[simp] theorem hostRead_S (off : Nat) (s : State) :
    (hostRead off s).S = s.S := by
  unfold hostRead; split <;> rfl

@[simp] theorem hostRead_din (off : Nat) (s : State) :
    (hostRead off s).din = s.din := by
  unfold hostRead; split <;> rfl

@[simp] theorem hostRead_tag (off : Nat) (s : State) :
    (hostRead off s).tag = s.tag := by
  unfold hostRead; split <;> rfl

@[simp] theorem hostRead_rndout (off : Nat) (s : State) :
    (hostRead off s).rndout = s.rndout := by
  unfold hostRead; split <;> rfl

@[simp] theorem hostRead_adbits (off : Nat) (s : State) :
    (hostRead off s).adbits = s.adbits := by
  unfold hostRead; split <;> rfl

@[simp] theorem hostRead_phase (off : Nat) (s : State) :
    (hostRead off s).phase = s.phase := by
  unfold hostRead; split <;> rfl

@[simp] theorem hostRead_tail (off : Nat) (s : State) :
    (hostRead off s).tail = s.tail := by
  unfold hostRead; split <;> rfl

@[simp] theorem hostRead_raw (off : Nat) (s : State) :
    (hostRead off s).raw = s.raw := by
  unfold hostRead; split <;> rfl

@[simp] theorem hostRead_tagValid (off : Nat) (s : State) :
    (hostRead off s).tagValid = s.tagValid := by
  unfold hostRead; split <;> rfl

@[simp] theorem hostRead_busy (off : Nat) (s : State) :
    (hostRead off s).busy = s.busy := by
  unfold hostRead; split <;> rfl

@[simp] theorem hostRead_done (off : Nat) (s : State) :
    (hostRead off s).done = s.done := by
  unfold hostRead; split <;> rfl

@[simp] theorem hostRead_err (off : Nat) (s : State) :
    (hostRead off s).err = s.err := by
  unfold hostRead; split <;> rfl

@[simp] theorem hostRead_errcode (off : Nat) (s : State) :
    (hostRead off s).errcode = s.errcode := by
  unfold hostRead; split <;> rfl

@[simp] theorem hostRead_ie (off : Nat) (s : State) :
    (hostRead off s).ie = s.ie := by
  unfold hostRead; split <;> rfl

@[simp] theorem hostRead_pending (off : Nat) (s : State) :
    (hostRead off s).pending = s.pending := by
  unfold hostRead; split <;> rfl

@[simp] theorem hostRead_agenda (off : Nat) (s : State) :
    (hostRead off s).agenda = s.agenda := by
  unfold hostRead; split <;> rfl

@[simp] theorem hostRead_replies (off : Nat) (s : State) :
    (hostRead off s).replies =
      (off, if s.busy && (regAt off).openWhileBusy then Config.freeRead s.draws
        else readReg (regAt off) s) :: s.replies := by
  unfold hostRead; split <;> rfl

@[simp] theorem hostRead_draws (off : Nat) (s : State) :
    (hostRead off s).draws = (if s.busy && (regAt off).openWhileBusy then s.draws + 1 else s.draws) := by
  unfold hostRead; split <;> rfl

/-! The state after reset. -/

@[simp] theorem reset_S : State.reset.S = Vector.replicate 8 zeroBlock := rfl

@[simp] theorem reset_din : State.reset.din = Vector.replicate 32 0 := rfl

@[simp] theorem reset_tag : State.reset.tag = zeroBlock := rfl

@[simp] theorem reset_rndout : State.reset.rndout = zeroBlock := rfl

@[simp] theorem reset_adbits : State.reset.adbits = 0 := rfl

@[simp] theorem reset_phase : State.reset.phase = .uninit := rfl

@[simp] theorem reset_tail : State.reset.tail = false := rfl

@[simp] theorem reset_raw : State.reset.raw = false := rfl

@[simp] theorem reset_tagValid : State.reset.tagValid = false := rfl

@[simp] theorem reset_busy : State.reset.busy = false := rfl

@[simp] theorem reset_done : State.reset.done = false := rfl

@[simp] theorem reset_err : State.reset.err = false := rfl

@[simp] theorem reset_errcode : State.reset.errcode = 0 := rfl

@[simp] theorem reset_ie : State.reset.ie = false := rfl

@[simp] theorem reset_pending : State.reset.pending = .nop := rfl

@[simp] theorem reset_agenda : State.reset.agenda = [] := rfl

@[simp] theorem reset_replies : State.reset.replies = [] := rfl

@[simp] theorem reset_draws : State.reset.draws = 0 := rfl

end Sys2Proof.Machine
end

