-- ==== Sys2Proof/Laws/Step.lean ====
section
/-! SUPPORT. One lemma for each shared operation that says everything it can do, so that no later proof unfolds
one: command acceptance, a host write, a completion, and the step itself. -/

namespace Sys2Proof.Machine

/-- R220: a CMD write either records one error or begins the command its word decodes to. -/
theorem acceptCommand_cases (v : Word) (s : State) :
    (∃ e, acceptCommand v s = raiseError e s) ∨
    (∃ i, s.busy = false ∧ decode v = .cmd i ∧ acceptanceError i s = none ∧
      acceptCommand v s = beginCommand i s) := by
  unfold acceptCommand
  split
  · exact .inl ⟨_, rfl⟩
  · split
    · exact .inl ⟨_, rfl⟩
    · split
      · exact .inl ⟨_, rfl⟩
      · next hb _ i hd _ ha => exact .inr ⟨i, by simpa using hb, hd, ha, rfl⟩

/-- A CMD write while BUSY = 1 is dropped. -/
theorem acceptCommand_busy (v : Word) (s : State) (h : s.busy = true) :
    acceptCommand v s = raiseError .busyWrite s := by
  simp [acceptCommand, h]

/-- A CMD write of an acceptable command is accepted. -/
theorem acceptCommand_accepts (v : Word) (i : Instr) (s : State) (hb : s.busy = false)
    (hd : decode v = .cmd i) (ha : acceptanceError i s = none) :
    acceptCommand v s = beginCommand i s := by
  simp [acceptCommand, hb, hd, ha]

/-- R73: everything a host write can do, by the register it reaches. -/
theorem writeReg_cases (r : Reg) (v : Word) (s : State) :
    (writeReg r v s = s ∧ r ≠ .ctrl ∧ r ≠ .cmd ∧ r ≠ .status ∧ (∀ w, r ≠ .din w) ∧ ∀ b w, r ≠ .state b w) ∨
    (r = .ctrl ∧ writeReg r v s = { s with ie := v.getLsbD 0 }) ∨
    (r = .cmd ∧ writeReg r v s = acceptCommand v s) ∨
    (r = .status ∧ writeReg r v s = writeStatus v s) ∨
    (∃ w, r = .din w ∧ writeReg r v s = writeDin w v s) ∨
    (∃ b w, r = .state b w ∧ writeReg r v s = writeState b w v s) := by
  cases r <;> simp [writeReg]

/-- R221: every completion succeeds. -/
theorem exec_next (i : Instr) (s : State) : ∃ t, exec i s = .next t := by
  cases i <;> exact ⟨_, rfl⟩

/-- What one step can do: a completion, an idle turn, a read, a write or a reset, in the state whose agenda
has lost its first event. -/
theorem step_cases {s t : State} (h : step s = .next t) :
    (s.busy = true ∧ s.completing = some s.pending ∧ s.nextIsReset = false ∧ s.nextWrite = none ∧
      exec s.pending { s with agenda := s.agenda.tail } = .next t) ∨
    (s.busy = false ∧ s.completing = none ∧ s.nextIsReset = false ∧ s.nextWrite = none ∧
      t = { s with agenda := s.agenda.tail }) ∨
    (s.completing = none ∧ s.nextIsReset = false ∧ s.nextWrite = none ∧
      ∃ off width o rest, s.agenda = .read off width :: rest ∧ checkAccess off width = .ok o ∧
        t = hostRead o { s with agenda := s.agenda.tail }) ∨
    (s.completing = none ∧ s.nextIsReset = false ∧
      ∃ r v, s.nextWrite = some (r, v) ∧ t = writeReg r v { s with agenda := s.agenda.tail }) ∨
    (s.completing = none ∧ s.nextIsReset = true ∧ s.nextWrite = none ∧
      t = resetCore { s with agenda := s.agenda.tail }) := by
  unfold step at h
  rcases hag : s.agenda with _ | ⟨e, rest⟩
  · have hs : { s with agenda := [] } = s := by rw [← hag]
    simp only [hag, quietTurn, engineTurn] at h
    rcases Bool.eq_false_or_eq_true s.busy with hb | hb
    rotate_left
    · rw [if_neg (by simp [hb]), Host.Outcome.next.injEq] at h
      refine .inr (.inl ⟨hb, ?_, ?_, ?_, ?_⟩)
      · simp [State.completing, hb]
      · simp [State.nextIsReset, hag]
      · simp [State.nextWrite, hag]
      · rw [← h]; exact hs.symm
    · rw [if_pos hb] at h
      refine .inl ⟨hb, ?_, ?_, ?_, ?_⟩
      · simp [State.completing, hb, hag]
      · simp [State.nextIsReset, hag]
      · simp [State.nextWrite, hag]
      · rw [List.tail_nil, hs]; exact h
  · simp only [hag] at h
    cases e with
    | read off width =>
      simp only [turn] at h
      cases ha : checkAccess off width with
      | error r => simp [ha] at h
      | ok o =>
        simp only [ha, Host.Outcome.next.injEq] at h
        refine .inr (.inr (.inl ⟨?_, ?_, ?_, off, width, o, rest, rfl, ha, h.symm⟩))
        · simp [State.completing, hag]
        · simp [State.nextIsReset, hag]
        · simp [State.nextWrite, hag]
    | write off width v =>
      simp only [turn] at h
      cases ha : checkAccess off width with
      | error r => simp [ha] at h
      | ok o =>
        simp only [ha, Host.Outcome.next.injEq] at h
        refine .inr (.inr (.inr (.inl ⟨?_, ?_, regAt o, v, ?_, h.symm⟩)))
        · simp [State.completing, hag]
        · simp [State.nextIsReset, hag]
        · simp [State.nextWrite, hag, ha]
    | engine =>
      simp only [turn, engineTurn] at h
      rcases Bool.eq_false_or_eq_true s.busy with hb | hb
      rotate_left
      · rw [if_neg (by simp [hb]), Host.Outcome.next.injEq] at h
        refine .inr (.inl ⟨hb, ?_, ?_, ?_, ?_⟩)
        · simp [State.completing, hb]
        · simp [State.nextIsReset, hag]
        · simp [State.nextWrite, hag]
        · rw [List.tail_cons]; exact h.symm
      · rw [if_pos hb] at h
        refine .inl ⟨hb, ?_, ?_, ?_, ?_⟩
        · simp [State.completing, hb, hag]
        · simp [State.nextIsReset, hag]
        · simp [State.nextWrite, hag]
        · rw [List.tail_cons]; exact h
    | reset =>
      simp only [turn, Host.Outcome.next.injEq] at h
      refine .inr (.inr (.inr (.inr ⟨?_, ?_, ?_, h.symm⟩)))
      · simp [State.completing, hag]
      · simp [State.nextIsReset, hag]
      · simp [State.nextWrite, hag]

/-- R221: everything a completion can do, command by command. -/
theorem exec_cases {i : Instr} {s t : State} (h : exec i s = .next t) :
    (i = .nop ∧ t = finish s) ∨
    (i = .init ∧ t = finish { s with
      S := initState, adbits := 0, phase := .initialized, tail := false, raw := false,
      tag := zeroBlock, tagValid := false }) ∨
    (∃ n, i = .absorb n ∧ t = finish { s with
      S := absorbChunk s.S (padChunk s.din n.toNat),
      adbits := s.adbits + BitVec.ofNat 64 (8 * n.toNat),
      phase := .absorbing,
      tail := decide (n.toNat < 32) }) ∨
    (i = .finalize ∧ t = finish { s with
      S := finalizeBlocks s.S s.adbits,
      tag := tagOf (finalizeBlocks s.S s.adbits),
      tagValid := true, phase := .finalized, tail := false }) ∨
    (i = .update ∧ t = finish { s with
      S := stateUpdate s.S (firstBlock s.din) (secondBlock s.din), raw := true }) ∨
    (i = .round ∧ t = finish { s with rndout := aesRound (firstBlock s.din) (secondBlock s.din) }) ∨
    (i = .clear ∧ t = finish { s with
      S := Vector.replicate 8 zeroBlock, din := Vector.replicate 32 0,
      tag := zeroBlock, rndout := zeroBlock, adbits := 0,
      phase := .uninit, tail := false, raw := false, tagValid := false,
      err := false, errcode := 0 }) := by
  cases i <;>
    simp only [exec, execNop, execInit, execAbsorb, execFinalize, execUpdate, execRound, execClear,
      Host.Outcome.next.injEq] at h <;>
    simp [h.symm]

/-- R28: the construction is open exactly in phases INITIALIZED and ABSORBING. -/
theorem isOpen_iff (p : Phase) : p.isOpen = true ↔ p = .initialized ∨ p = .absorbing := by
  cases p <;> simp [Phase.isOpen]

/-- R220: acceptance looks at PHASE, TAIL and ADBITS only. -/
theorem acceptanceError_congr {i : Instr} {s t : State} (hp : t.phase = s.phase) (ht : t.tail = s.tail)
    (ha : t.adbits = s.adbits) : acceptanceError i t = acceptanceError i s := by
  cases i <;> simp [acceptanceError, hp, ht, ha]

/-- R220: what acceptance of ABSORB n has checked. -/
theorem acceptanceError_absorb {n : BitVec 6} {s : State} (h : acceptanceError (.absorb n) s = none) :
    s.phase.isOpen = true ∧ s.tail = false ∧ s.adbits.toNat + 8 * n.toNat < 2 ^ 64 := by
  simp only [acceptanceError] at h
  split at h
  · next hp =>
    split at h
    · cases h
    · exact ⟨hp.1, hp.2, by omega⟩
  · cases h

/-- R69: an aligned 32-bit access of the window is admitted at its offset. -/
theorem checkAccess_word (off : Nat) (hal : off % 4 = 0) (hlt : off < windowSize) :
    checkAccess (off : Int) 4 = .ok off := by
  have hin : ¬ ((off : Int) < 0 ∨ (windowSize : Int) ≤ (off : Int)) := by omega
  simp only [checkAccess, ne_eq, not_true_eq_false, if_false, hin, Int.toNat_natCast, hal]

/-- R73: the step of an admitted write. -/
theorem step_write (s : State) (rest : List Event) (off : Nat) (v : Word) (hal : off % 4 = 0)
    (hlt : off < windowSize) :
    step { s with agenda := .write off 4 v :: rest } =
      .next (writeReg (regAt off) v { s with agenda := rest }) := by
  simp [step, turn, checkAccess_word _ hal hlt, hostWrite]

/-- R72: the step of an admitted read. -/
theorem step_read (s : State) (rest : List Event) (off : Nat) (hal : off % 4 = 0) (hlt : off < windowSize) :
    step { s with agenda := .read off 4 :: rest } = .next (hostRead off { s with agenda := rest }) := by
  simp [step, turn, checkAccess_word _ hal hlt]

/-- R221: the step of a scheduled completion. -/
theorem step_engine (s : State) (rest : List Event) (hb : s.busy = true) :
    step { s with agenda := .engine :: rest } = exec s.pending { s with agenda := rest } := by
  simp [step, turn, engineTurn, hb]

/-- A run of k + 1 steps is one step and a run of k. -/
theorem core_run_succ (k : Nat) (s t : State) (h : step s = .next t) :
    Sys2Proof.core.run (k + 1) s = Sys2Proof.core.run k t := by
  have hc : Sys2Proof.core.step s = .next t := h
  simp only [Host.Core.run, hc]

/-- Runs compose. -/
theorem core_run_append (j k : Nat) (s t : State) (h : Sys2Proof.core.run j s = .next t) :
    Sys2Proof.core.run (j + k) s = Sys2Proof.core.run k t := by
  induction j generalizing s with
  | zero => cases h; simp
  | succ j ih =>
    cases hs : step s with
    | next u =>
      rw [core_run_succ j s u hs] at h
      rw [show j + 1 + k = (j + k) + 1 by omega, core_run_succ _ s u hs]
      exact ih u h
    | fault r => cases r
    | refused r =>
      have hr : Sys2Proof.core.run (j + 1) s = .refused r := by
        have hc : Sys2Proof.core.step s = .refused r := hs
        simp only [Host.Core.run, hc]
      rw [hr] at h; cases h

end Sys2Proof.Machine
end

