-- ==== Sys2Proof/Tests/Slice0.lean ====
section
/-! SUPPORT. Tests: values the spec works out (95_test_vectors.md, cited by section), each about one operation or
one step, and for each obligation with hypotheses a state and operands that meet all of them. -/

namespace Sys2Proof.Tests
open Sys2Proof.Machine

/-! Helpers. -/

/-- R11: the block written as 32 hexadecimal digits, byte 0 first. -/
def block (n : Nat) : Block := Vector.ofFn fun j => BitVec.ofNat 8 (n / 2 ^ (8 * (15 - j.val)))

/-- A chunk made of two blocks. -/
def chunk (m0 m1 : Nat) : Chunk := Vector.ofFn fun j => ((block m0).toList ++ (block m1).toList).getD j.val 0

/-- The "distinct" state D of section 2.4: byte j of block i is 16i + j. -/
def distinctBlocks : Blocks := Vector.ofFn fun i => Vector.ofFn fun j => BitVec.ofNat 8 (16 * i.val + j.val)

/-- What a function of the next state gives; none where there is no next state. -/
def after {α : Type} (o : Host.Outcome State Fault Refusal) (f : State → α) : Option α :=
  match o with
  | .next t => some (f t)
  | .fault _ => none
  | .refused _ => none

/-- The reset state with a command pending and the given inputs to come. -/
def pendingState (i : Instr) (agenda : List Event) : State :=
  { State.reset with busy := true, pending := i, agenda := agenda }

/-- The reset state with the given inputs to come. -/
def idleState (agenda : List Event) : State := { State.reset with agenda := agenda }

/-- A state that a run reaches after INIT and whole chunks of `n / 256` times 32 bytes. -/
def absorbingState (n : BitVec 64) : State := { State.reset with phase := .absorbing, adbits := n, done := true }

/-- The same with ABSORB k accepted. -/
def absorbPending (n : BitVec 64) (k : BitVec 6) (agenda : List Event) : State :=
  { absorbingState n with busy := true, done := false, pending := .absorb k, agenda := agenda }

/-! Well-formedness: each check refuses an ill-formed term (R95, R96). -/

theorem test_wellFormed_refuses_absorb_zero : (Instr.absorb 0).wellFormed = false := by decide

theorem test_wellFormed_refuses_absorb_33 : (Instr.absorb 33).wellFormed = false := by decide

theorem test_wellFormed_refuses_absorb_63 : (Instr.absorb 63).wellFormed = false := by decide

theorem test_wellFormed_admits : ([.nop, .init, .absorb 1, .absorb 32, .finalize, .update, .round, .clear].all
    Instr.wellFormed) = true := by decide

/-! Decoding: one word for each command, from R91's layout (RSV1, LEN, RSV0, OP) and R93's opcodes. -/

theorem test_decode_nop : decode 0b000000000000000000_000000_0000_0000#32 = .cmd .nop := by decide

theorem test_decode_init : decode 0b000000000000000000_000000_0000_0001#32 = .cmd .init := by decide

theorem test_decode_absorb : decode 0b000000000000000000_010001_0000_0010#32 = .cmd (.absorb 17) := by decide

theorem test_decode_finalize : decode 0b000000000000000000_000000_0000_0011#32 = .cmd .finalize := by decide

theorem test_decode_update : decode 0b000000000000000000_000000_0000_0100#32 = .cmd .update := by decide

theorem test_decode_round : decode 0b000000000000000000_000000_0000_0101#32 = .cmd .round := by decide

theorem test_decode_clear : decode 0b000000000000000000_000000_0000_0110#32 = .cmd .clear := by decide

/-- Section 2.12: the words whose decoding the spec lists as illegal, with its reasons. -/
theorem test_decode_illegal_words :
    [0x00000002, 0x00002102, 0x00003f02, 0x00000007, 0x0000000f, 0x00000010, 0x00000101, 0x00004000,
      0x00004002, 0x80000001, 0xffffffff].map decode =
      [.illegal .len, .illegal .len, .illegal .len, .illegal .opcode, .illegal .opcode, .illegal .reservedBit,
        .illegal .len, .illegal .reservedBit, .illegal .reservedBit, .illegal .reservedBit,
        .illegal .reservedBit] := by decide

/-- R93: the ABSORB words are 0x00000102 to 0x00002002. -/
theorem test_encode_absorb_ends :
    encode (.absorb 1) = 0x00000102 ∧ encode (.absorb 32) = 0x00002002 := by decide

/-- R93: no word matches two rows of the table: some bit that both rows fix differs. -/
theorem test_opcode_rows_disjoint :
    opcodeTable.Pairwise fun a b => (a.pattern ^^^ b.pattern) &&& a.mask &&& b.mask ≠ 0 := by decide

/-- R93: legality by the table, at the ends of ABSORB's range. -/
theorem test_legalWord : [0x00000002, 0x00000102, 0x00002002, 0x00002102, 0x00000006, 0x00000007].map legalWord =
    [false, true, true, false, true, false] := by decide

/-- The table's numbering: one 32-bit word, bit 0 least significant. -/
theorem test_decodeTableWord : decodeTableWord 32 0x00001102 = some (.absorb 17) := by decide

/-- R98's example, and its mnemonics in other cases. -/
theorem test_assemble : assemble "ABSORB 17" = some 0x00001102 ∧ assemble "absorb 0x20" = some 0x00002002 ∧
    assemble "absorb 33" = none := by decide +kernel

/-! The arithmetic of the round (section 2.1). -/

theorem test_gmul : gmul 0x57 0x13 = 0xfe ∧ gmul 0x57 0x83 = 0xc1 ∧ gmul 0xff 0x03 = 0x1a := by decide +kernel

theorem test_xtime : xtime 0x57 = 0xae ∧ xtime 0x80 = 0x1b := by decide

theorem test_sbox : sbox 0x00 = 0x63 ∧ sbox 0x10 = 0xca ∧ sbox 0x53 = 0xed ∧ sbox 0xff = 0x16 := by decide

/-- FIPS-197 Appendix B, round 1, step by step (section 1). -/
theorem test_round_steps :
    subBytes (block 0x193de3bea0f4e22b9ac68d2ae9f84808) = block 0xd42711aee0bf98f1b8b45de51e415230 ∧
    shiftRows (block 0xd42711aee0bf98f1b8b45de51e415230) = block 0xd4bf5d30e0b452aeb84111f11e2798e5 ∧
    mixColumns (block 0xd4bf5d30e0b452aeb84111f11e2798e5) = block 0x046681e5e0cb199a48f8d37a2806264c := by
  decide +kernel

/-- Section 2.2: the round of the counting block under itself. -/
theorem test_aesRound_same_operands :
    aesRound (block 0x000102030405060708090a0b0c0d0e0f) (block 0x000102030405060708090a0b0c0d0e0f) =
      block 0x6a6b5e4628683556b8d0576a2b912f53 := by decide +kernel

/-- Section 2.6: blocks 0, 1, 2 and 5 of the initial layout after one update; C1 keys block 1, and is the input of
block 2. -/
theorem test_initLayout_after_one_update :
    (stateUpdate initLayout zeroBlock zeroBlock)[0] = block 0x4baac21b99f006463b36dd3cbf033a61 ∧
    (stateUpdate initLayout zeroBlock zeroBlock)[1] = block 0xb85e7b360ea14c924372522110d64bbe ∧
    (stateUpdate initLayout zeroBlock zeroBlock)[2] = block 0x006150a92e86c11c0869ecbac53b8f82 ∧
    (stateUpdate initLayout zeroBlock zeroBlock)[5] = block 0x6362626160666b6e7641543af38a1a01 := by
  decide +kernel

/-- Section 2.7: the length block of 33 bytes. -/
theorem test_lengthBlock : lengthBlock 264 0 = block 0x08010000000000000000000000000000 := by decide +kernel

/-- Section 2.8: the finalisation temporary after "a", from the S[2] listed there. -/
theorem test_finalBlock :
    finalBlock (Vector.replicate 8 (block 0x40805dbd473f59b7b19a6137038bc657)) 8 =
      block 0x48805dbd473f59b7b19a6137038bc657 := by decide +kernel

/-- Section 2.9: the tag of the empty input, from the final state listed there. -/
theorem test_tagOf :
    tagOf #v[block 0xc24f0dffb2e2f770d609b0014803279a, block 0xe7ac4ecd05185ca392ae80d637852ff7,
      block 0xd2163d1714147f7171f101a796e749c7, block 0x4b4f9590873f0e42793cbd1e1cbf683b,
      block 0xb81e6c80b48fb952db5c53c3aa298423, block 0x5ce58a0aa50565cd77540cd93e336d9b,
      block 0xdb8d6d32f1b8e199cd2286f600b03160, block 0xa850ce7185ecd01a95982313db4daf14] =
      block 0x83cc600dc4e3e7e62d4055826174f149 := by decide +kernel

/-! The completions, at most two tests each. -/

/-- Section 2.11: NOP from reset. -/
theorem test_nop : after (step (pendingState .nop [.engine])) statusWord = some 0x00000002 := by decide

/-- Section 2.11: NOP in ABSORBING with TAIL = 1 leaves them. -/
theorem test_nop_keeps_phase :
    after (exec .nop { absorbingState 8 with tail := true, busy := true }) statusWord = some 0x00000062 := by
  decide

/-- Section 2.6: INIT from reset. -/
theorem test_init : after (step (pendingState .init [.engine])) statusWord = some 0x00000012 := by decide

/-- Section 2.6: INIT with an error recorded keeps it. -/
theorem test_init_keeps_error :
    after (exec .init { State.reset with err := true, errcode := 1, raw := true }) statusWord =
      some 0x00000116 := by decide

/-- Section 2.8: ABSORB 1 after INIT. -/
theorem test_absorb_short :
    after (exec (.absorb 1) { State.reset with phase := .initialized })
      (fun t => (statusWord t, t.adbits)) = some (0x00000062, 8) := by decide

/-- Section 2.8: a second ABSORB 32. -/
theorem test_absorb_full :
    after (exec (.absorb 32) (absorbingState 256)) (fun t => (statusWord t, t.adbits)) =
      some (0x00000022, 512) := by decide

/-- Section 2.9: FINALIZE after INIT. -/
theorem test_finalize :
    after (exec .finalize { State.reset with phase := .initialized }) statusWord = some 0x00000832 := by
  decide

/-- Section 2.5: FINALIZE after an UPDATE keeps RAW. -/
theorem test_finalize_keeps_raw :
    after (exec .finalize { State.reset with phase := .initialized, raw := true }) statusWord =
      some 0x000008b2 := by decide

/-- Section 2.5 and program P6: UPDATE of the distinct state. -/
theorem test_update :
    after (exec .update { State.reset with
      S := distinctBlocks
      din := chunk 0x000102030405060708090a0b0c0d0e0f 0xf0f1f2f3f4f5f6f7f8f9fafbfcfdfeff })
      (fun t => (t.S[0], t.S[4], t.S[7])) =
      some (block 0x16d70e0b826453edcc6cc791c724a0e9, block 0xec6da640c7829ba56e066392c823ab8b,
        block 0xb695081c869eff399924d833bac226ad) := by decide +kernel

/-- Section 2.5: UPDATE from reset. -/
theorem test_update_status : after (step (pendingState .update [.engine])) statusWord = some 0x00000082 := by
  decide

/-- Section 2.3 and program P4: ROUND on the FIPS-197 operands. -/
theorem test_round :
    after (exec .round { State.reset with
      din := chunk 0x193de3bea0f4e22b9ac68d2ae9f84808 0xa0fafe1788542cb123a339392a6c7605 })
      (fun t => (t.rndout, statusWord t)) =
      some (block 0xa49c7ff2689f352b6b5bea43026a5049, 0x00000002) := by decide +kernel

/-- Section 2.11: CLEAR after a finished checksum with an error recorded and IE = 1. -/
theorem test_clear :
    after (exec .clear { State.reset with
      phase := .finalized, tagValid := true, tag := block 0x83cc600dc4e3e7e62d4055826174f149, adbits := 8,
      err := true, errcode := 1, ie := true })
      (fun t => (statusWord t, t.tag, t.adbits, irq t)) = some (0x00000002, zeroBlock, 0, true) := by decide

/-! The window and acceptance (sections 2.11, 2.13, 2.14). -/

/-- Section 2.13: ABSORB 1 from reset is out of sequence. -/
theorem test_absorb_from_reset :
    after (step (idleState [.write 0x008 4 0x00000102])) statusWord = some 0x00000204 := by decide

/-- Section 2.13: an illegal word while INIT is pending reports BUSY_WRITE. -/
theorem test_busy_first :
    after (step (pendingState .init [.write 0x008 4 0x7])) statusWord = some 0x00000305 := by decide

/-- Section 2.13: decode is checked before phase. -/
theorem test_decode_before_phase :
    after (step { absorbingState 8 with tail := true, agenda := [.write 0x008 4 0x00002102] })
      statusWord = some 0x00000166 := by decide

/-- Section 2.7: ABSORB 32 at 2^61 - 32 bytes overflows, ABSORB 31 does not. -/
theorem test_len_overflow :
    acceptanceError (.absorb 32) (absorbingState 0xffffffffffffff00) = some .lenOverflow ∧
    acceptanceError (.absorb 31) (absorbingState 0xffffffffffffff00) = none := by decide

/-- Section 2.7: the phase check comes before the length check. -/
theorem test_sequence_before_length :
    acceptanceError (.absorb 1) { absorbingState 0xfffffffffffffff8 with tail := true } = some .sequence := by
  decide

/-- Section 2.14: C0 in a block register reads as these words. -/
theorem test_block_words :
    ([0, 1, 2, 3].map fun w => readReg (.state 3 w) { State.reset with S := Vector.replicate 8 constC0 }) =
      [0x02010100, 0x0d080503, 0x59372215, 0x6279e990] := by decide +kernel

/-- Section 2.14: ADBITS = 0xfffffffffffffff8 reads as two words. -/
theorem test_adbits_words :
    readReg .adbitsLo (absorbingState 0xfffffffffffffff8) = 0xfffffff8 ∧
    readReg .adbitsHi (absorbingState 0xfffffffffffffff8) = 0xffffffff := by decide

/-- Section 2.14: bytes "abc" arrive in DIN0. -/
theorem test_din_write :
    after (step (idleState [.write 0x020 4 0x00636261])) (fun t => (t.din[0], t.din[1], t.din[2], t.din[3])) =
      some (0x61, 0x62, 0x63, 0x00) := by decide

/-- R70: an access of another width is refused. -/
theorem test_refuses_byte_access :
    checkAccess 0x008 1 = .error .badWidth ∧ checkAccess 0x1000 4 = .error .outsideWindow ∧
    checkAccess (-4) 4 = .error .outsideWindow ∧ checkAccess 0x00A 4 = .error .misaligned := by
  refine ⟨rfl, rfl, rfl, rfl⟩

/-- Section 2.15: reset while INIT is pending. -/
theorem test_reset : after (step (pendingState .init [.reset])) statusWord = some 0x00000000 := by decide

/-! Witnesses: each shows that the hypotheses of the obligation it names can be met together, clause by clause,
at the ends of the ranges. -/

/-- DecodeAndEncodeAgree: both directions, at the ends of LEN. -/
theorem witness_DecodeAndEncodeAgree :
    (Instr.absorb 1).WellFormed ∧ (Instr.absorb 32).WellFormed ∧
    decode 0x00000102 = .cmd (.absorb 1) ∧ decode 0x00002002 = .cmd (.absorb 32) := by decide

/-- AssemblerGivesEveryCommandItsWord: a decimal and a hexadecimal length. -/
theorem witness_AssemblerGivesEveryCommandItsWord :
    ((Instr.absorb 32).WellFormed ∧ "aBsorb 32".toList.map Char.toUpper = commandChars (.absorb 32)) ∧
    ((Instr.absorb 31).WellFormed ∧ "absorb 0x1f".toList.map Char.toUpper = commandHexChars (.absorb 31)) ∧
    "Absorb 0xA".toList.map Char.toUpper = commandHexChars (.absorb 10) := by
  decide +kernel

/-- StepRunsTheDecodedCommand: its four clauses. -/
theorem witness_StepRunsTheDecodedCommand :
    ((pendingState .init []).busy = true ∧ (pendingState .init []).agenda = []) ∧
    ((pendingState .round [.engine, .engine]).busy = true ∧
      (pendingState .round [.engine, .engine]).agenda = .engine :: [.engine]) ∧
    (State.reset.busy = false ∧ decode 0x00000006 = .cmd .clear ∧
      acceptanceError .clear State.reset = none) ∧
    decodeTableWord 32 0x00002002 = some (.absorb 32) := by decide

/-- IdleEngineChangesNothing: its two clauses. -/
theorem witness_IdleEngineChangesNothing :
    (State.reset.busy = false ∧ State.reset.agenda = []) ∧
    ((idleState [.engine]).busy = false ∧ (idleState [.engine]).agenda = .engine :: []) := by decide

/-- AbsorbCompletes: one byte, and the last length that fits. -/
theorem witness_AbsorbCompletes :
    (1 ≤ (1 : BitVec 6).toNat ∧ (1 : BitVec 6).toNat ≤ 32 ∧
      State.reset.adbits.toNat + 8 * (1 : BitVec 6).toNat ≤ 2 ^ 64 - 1) ∧
    (1 ≤ (31 : BitVec 6).toNat ∧ (31 : BitVec 6).toNat ≤ 32 ∧
      (absorbingState 0xffffffffffffff00).adbits.toNat + 8 * (31 : BitVec 6).toNat ≤ 2 ^ 64 - 1) := by decide

/-- CompletionsLeaveOtherWords: a word beside the one that ROUND writes. -/
theorem witness_CompletionsLeaveOtherWords :
    (∃ t, exec .round State.reset = .next t) ∧ Reg.tag 3 ≠ .status ∧ writesReg .round (.tag 3) = false :=
  ⟨⟨_, rfl⟩, by decide, by decide⟩

/-- CompletionsRaiseNoError: a command that is not CLEAR, and CLEAR. -/
theorem witness_CompletionsRaiseNoError : Instr.init ≠ .clear ∧ Instr.clear = .clear := by decide

/-- AbsorbIgnoresStaleBytes: ABSORB 31 and a chunk that differs in byte 31. -/
theorem witness_AbsorbIgnoresStaleBytes :
    (∀ (j : Nat) (h : j < 32), j < (31 : BitVec 6).toNat →
      (chunk 0 0xff)[j] = State.reset.din[j]) ∧ (chunk 0 0xff)[31] ≠ State.reset.din[31] := by decide +kernel

/-- AesRoundByteByByte, UpdateBlockByBlock, InjectionReachesOneBlockEach: the last column, block and byte. -/
theorem witness_layers :
    3 < 4 ∧ (7 < 8 ∧ (7 : Nat) ≠ 0 ∧ (7 : Nat) ≠ 4) ∧ 15 < 16 := by decide

/-- SboxIsInverseThenAffine: zero, and 0x53 with its inverse 0xca (section 2.1). -/
theorem witness_SboxIsInverseThenAffine : (0 : Byte) = 0 ∧ (0x53 : Byte) ≠ 0 ∧ gmul 0x53 0xca = 1 := by
  decide +kernel

/-- CommandAcceptance: each clause. -/
theorem witness_CommandAcceptance :
    (pendingState .init []).busy = true ∧
    (State.reset.busy = false ∧ ∀ i : Instr, i.WellFormed → encode i ≠ 0x00002102) ∧
    ((Instr.absorb 32).WellFormed ∧ encode (.absorb 32) = 0x00002002 ∧
      ¬ ((State.reset.phase = .initialized ∨ State.reset.phase = .absorbing) ∧ State.reset.tail = false)) ∧
    ((absorbingState 0xffffffffffffff00).phase = .absorbing ∧
      (absorbingState 0xffffffffffffff00).tail = false ∧
      (absorbingState 0xffffffffffffff00).adbits.toNat + 8 * (32 : BitVec 6).toNat > 2 ^ 64 - 1 ∧
      (absorbingState 0xffffffffffffff00).adbits.toNat + 8 * (31 : BitVec 6).toNat ≤ 2 ^ 64 - 1) ∧
    (State.reset.busy = false ∧ encode .finalize = 0x00000003 ∧ State.reset.phase ≠ .initialized) ∧
    ((absorbingState 0).busy = false ∧ (absorbingState 0).phase = .absorbing) ∧
    encode .clear = 0x00000006 := by
  have absorb : ∀ n : BitVec 6, (Instr.absorb n).wellFormed = true → encode (.absorb n) ≠ 0x00002102 := by
    decide +kernel
  refine ⟨by decide, ⟨by decide, ?_⟩, by decide, by decide, by decide, by decide, by decide⟩
  intro i hi
  cases i with
  | absorb n => exact absorb n hi
  | _ => decide

/-- IllegalWordsOnlyRecordAnError: each kind of illegal word, at the ends of its range. -/
theorem witness_IllegalWordsOnlyRecordAnError : State.reset.busy = false ∧
    7 ≤ ((0x7 : Word).extractLsb' 0 4).toNat ∧ 7 ≤ ((0xf : Word).extractLsb' 0 4).toNat ∧
    (0x10 : Word).extractLsb' 4 4 ≠ 0 ∧ (0x80 : Word).extractLsb' 4 4 ≠ 0 ∧
    (0x4000 : Word).extractLsb' 14 18 ≠ 0 ∧ (0x80000000 : Word).extractLsb' 14 18 ≠ 0 ∧
    ((0x0002 : Word).extractLsb' 0 4 = 2 ∧ (0x0002 : Word).extractLsb' 8 6 = 0) ∧
    ((0x2102 : Word).extractLsb' 0 4 = 2 ∧ 33 ≤ ((0x2102 : Word).extractLsb' 8 6).toNat) ∧
    ((0x3f02 : Word).extractLsb' 0 4 = 2 ∧ 33 ≤ ((0x3f02 : Word).extractLsb' 8 6).toNat) ∧
    ((0x0101 : Word).extractLsb' 0 4 ≠ 2 ∧ (0x0101 : Word).extractLsb' 8 6 ≠ 0) := by decide

/-- BusyWritesAreDropped: the offsets of each kind at the ends of their ranges, and a step of its last clause. -/
theorem witness_BusyWritesAreDropped :
    (pendingState .init []).busy = true ∧
    ((∃ w < 8, 0x020 = 0x020 + 4 * w) ∧ ∃ w < 8, 0x03C = 0x020 + 4 * w) ∧
    ((∃ b < 8, ∃ w < 4, 0x100 = 0x100 + 16 * b + 4 * w) ∧
      ∃ b < 8, ∃ w < 4, 0x17C = 0x100 + 16 * b + 4 * w) ∧
    ((pendingState .init [.write 0x020 4 5]).completing = none ∧
      (pendingState .init [.write 0x020 4 5]).nextIsReset = false ∧
      ∃ t, step (pendingState .init [.write 0x020 4 5]) = .next t) :=
  ⟨by decide, by decide, by decide, by decide, by decide, ⟨_, rfl⟩⟩

/-- FirstErrorIsKept: a second error. -/
theorem witness_FirstErrorIsKept :
    let s := { idleState [.write 0x008 4 0x7] with err := true, errcode := 2 }
    s.err = true ∧ after (step s) (fun t => (t.err, statusWord t)) = some (true, 0x00000204) := by decide

/-- OnlyTheseClearAnError: a recorded error, and a write that clears it. -/
theorem witness_OnlyTheseClearAnError :
    let s := { idleState [.write 0x00C 4 0x4] with err := true, errcode := 1 }
    s.err = true ∧ after (step s) (fun t => (t.err, t.done)) = some (false, false) := by decide

/-- OnlyTheseWritesRaiseAnError: an illegal word. -/
theorem witness_OnlyTheseWritesRaiseAnError :
    (idleState [.write 0x008 4 0x7]).err = false ∧
    after (step (idleState [.write 0x008 4 0x7])) State.err = some true := by decide

/-- DoneFollowsTheCommand, PhaseFollowsTheConstruction, RawMarksForeignChanges, TagValidFollowsFinalize: steps of
each kind. -/
theorem witness_steps :
    (∃ t, step (pendingState .finalize []) = .next t) ∧ (pendingState .finalize []).completing = some .finalize ∧
    (∃ t, step (pendingState .finalize [.read 0x040 4]) = .next t) ∧
    (∃ t, step (idleState [.write 0x17C 4 1]) = .next t) ∧ (∃ t, step (idleState [.reset]) = .next t) :=
  ⟨⟨_, rfl⟩, by decide, ⟨_, rfl⟩, ⟨_, rfl⟩, ⟨_, rfl⟩⟩

/-- OneCommandAtATime: its clauses. -/
theorem witness_OneCommandAtATime :
    ((pendingState .nop [.engine]).busy = true ∧ ∃ t, step (pendingState .nop [.engine]) = .next t) ∧
    after (step (pendingState .nop [.read 0x00C 4])) State.busy = some true ∧
    ((idleState [.write 0x008 4 0x1]).busy = false ∧
      (idleState [.write 0x008 4 0x1]).nextWrite = some (.cmd, 0x1) ∧ decode 0x1 = .cmd .init ∧
      acceptanceError .init (idleState [.write 0x008 4 0x1]) = none ∧
      after (step (idleState [.write 0x008 4 0x1])) State.busy = some true) :=
  ⟨⟨by decide, ⟨_, rfl⟩⟩, by decide, by decide, rfl, by decide, rfl, by decide⟩

/-- The invariant holds of a state a run reaches: whole chunks absorbed, ABSORB pending; used below. -/
theorem absorbPending_inv (n : BitVec 64) (k : BitVec 6) (agenda : List Event) (hn : n.toNat % 256 = 0)
    (hk : 1 ≤ k.toNat ∧ k.toNat ≤ 32) (h : n.toNat + 8 * k.toNat < 2 ^ 64) :
    (absorbPending n k agenda).Inv := by
  constructor <;>
    simp [absorbPending, absorbingState, Instr.WellFormed, Instr.wellFormed, acceptanceError, Phase.isOpen] <;>
    omega

/-- TailMarksAShortChunk: TAIL = 1 with the core idle, and the ends of ABSORB's range. -/
theorem witness_TailMarksAShortChunk :
    ({ absorbingState 8 with tail := true }.busy = false ∧ { absorbingState 8 with tail := true }.tail = true ∧
      (Instr.absorb 1).WellFormed ∧ (Instr.absorb 32).WellFormed) ∧
    ((absorbPending 256 31 [.engine]).Inv ∧ ∃ t, step (absorbPending 256 31 [.engine]) = .next t) ∧
    ((absorbPending 256 32 [.engine]).Inv ∧ ∃ t, step (absorbPending 256 32 [.engine]) = .next t) :=
  ⟨by decide, ⟨absorbPending_inv _ _ _ (by decide) (by decide) (by decide), ⟨_, rfl⟩⟩,
    ⟨absorbPending_inv _ _ _ (by decide) (by decide) (by decide), ⟨_, rfl⟩⟩⟩

/-- LengthCounterNeverWraps: the last length that fits. -/
theorem witness_LengthCounterNeverWraps :
    (absorbPending 0xffffffffffffff00 31 []).Inv ∧
    (absorbPending 0xffffffffffffff00 31 []).completing = some (.absorb 31) ∧
    ∃ t, step (absorbPending 0xffffffffffffff00 31 []) = .next t :=
  ⟨absorbPending_inv _ _ _ (by decide) (by decide) (by decide), by decide, ⟨_, rfl⟩⟩

/-- RegistersChangeOnlyAsTheirRulesSay: steps that change S, DIN, ADBITS and IE. -/
theorem witness_RegistersChangeOnlyAsTheirRulesSay :
    (idleState [.write 0x100 4 1]).nextIsReset = false ∧
    after (step (idleState [.write 0x100 4 1])) (fun t => decide (t.S ≠ State.reset.S)) = some true ∧
    after (step (idleState [.write 0x03C 4 1])) (fun t => decide (t.din ≠ State.reset.din)) = some true ∧
    after (step (absorbPending 256 31 [])) State.adbits = some 504 ∧
    after (step (idleState [.write 0x004 4 1])) State.ie = some true ∧
    after (step { pendingState .init [] with tag := constC0 }) (fun t => decide (t.tag ≠ constC0)) = some true ∧
    after (step { pendingState .clear [] with rndout := constC0 })
      (fun t => decide (t.rndout ≠ constC0)) = some true := by decide +kernel

/-- OnlyAlignedWordAccessesAreAdmitted: accesses on either side of each bound. -/
theorem witness_OnlyAlignedWordAccessesAreAdmitted :
    ((4 : Nat) = 4 ∧ (0xFFC : Int) % 4 = 0 ∧ (0 : Int) ≤ 0xFFC ∧ (0xFFC : Int) < 0x1000) ∧
    (8 : Nat) ≠ 4 ∧ (0xFFE : Int) % 4 ≠ 0 ∧ (-4 : Int) < 0 ∧ (0x1000 : Int) ≤ 0x1000 := by decide

/-- WindowLiesAtItsBase: the first and the last word of the window, and the first address beyond it. -/
theorem witness_WindowLiesAtItsBase :
    (4 = 4 ∧ Config.base % 4 = 0 ∧ Config.base ≤ Config.base ∧ Config.base < Config.base + 0x1000) ∧
    (4 = 4 ∧ (Config.base + 0xFFC) % 4 = 0 ∧ Config.base ≤ Config.base + 0xFFC ∧
      Config.base + 0xFFC < Config.base + 0x1000) ∧
    ¬ (4 = 4 ∧ (Config.base + 0x1000) % 4 = 0 ∧ Config.base ≤ Config.base + 0x1000 ∧
      Config.base + 0x1000 < Config.base + 0x1000) := by
  have h : Config.base % 4 = 0 := by simp [Config.base]; omega
  omega

/-- RegisterMapIsExact: the last STATE word and the reserved offsets at the ends of their ranges. -/
theorem witness_RegisterMapIsExact :
    (Reg.state 7 3).offset = some 0x17C ∧ regAt 0x17C ≠ .reserved ∧ regAt 0x018 = .reserved ∧
    regAt 0x060 = .reserved ∧ regAt 0x0FC = .reserved ∧ regAt 0x180 = .reserved ∧ regAt 0xFFC = .reserved := by
  decide

/-- IdleReadsReturnTheRegisters: a word of each array register whose bytes are the register's. -/
theorem witness_IdleReadsReturnTheRegisters :
    State.reset.busy = false ∧
    (7 < 8 ∧ ∀ (k : Nat) (h : k < 4),
      (0xffeeddcc : Word).extractLsb' (8 * k) 8 = (chunk 0 0xccddeeff)[4 * 7 + k]) ∧
    (3 < 4 ∧ ∀ (k : Nat) (h : k < 4), (0x6279e990 : Word).extractLsb' (8 * k) 8 = constC0[4 * 3 + k]) ∧
    (7 < 8 ∧ ∀ (k : Nat) (h : k < 4),
      (0x7f7e7d7c : Word).extractLsb' (8 * k) 8 = distinctBlocks[7][4 * 3 + k]) := by decide +kernel

/-- BusyReadsOfResultsAreFree: a step that is neither completion nor reset, and offsets at both ends. -/
theorem witness_BusyReadsOfResultsAreFree :
    ((pendingState .init [.read 0x00C 4]).busy = true ∧ (pendingState .init [.read 0x00C 4]).completing = none ∧
      (pendingState .init [.read 0x00C 4]).nextIsReset = false ∧
      ∃ t, step (pendingState .init [.read 0x00C 4]) = .next t) ∧
    (0x17C % 4 = 0 ∧ 0x17C < 0x1000 ∧ 0xFFC % 4 = 0 ∧ 0xFFC < 0x1000) :=
  ⟨⟨by decide, by decide, by decide, ⟨_, rfl⟩⟩, by decide⟩

/-- ReadsHaveNoSideEffects. -/
theorem witness_ReadsHaveNoSideEffects :
    (pendingState .init [.read 0x100 4]).agenda = .read 0x100 4 :: [] ∧
    ∃ t, step (pendingState .init [.read 0x100 4]) = .next t := ⟨rfl, ⟨_, rfl⟩⟩

/-- IdleWritesReachTheirRegister: the last DIN and STATE words and ignored offsets at the ends of their ranges. -/
theorem witness_IdleWritesReachTheirRegister :
    State.reset.busy = false ∧ 7 < 8 ∧ 3 < 4 ∧
    (0x040 ≤ 0x05C ∧ 0x05C < 0x060 ∧ 0x05C % 4 = 0) ∧ (0x060 ≤ 0x0FC ∧ 0x0FC < 0x100 ∧ 0x0FC % 4 = 0) ∧
    (0x180 ≤ 0xFFC ∧ 0xFFC < 0x1000 ∧ 0xFFC % 4 = 0) := by decide

/-- LoadingDinPutsEachByteInPlace: a full chunk, and no byte. -/
theorem witness_LoadingDinPutsEachByteInPlace :
    State.reset.busy = false ∧ (List.replicate 32 (0xff : Byte)).length ≤ 32 ∧ ([] : List Byte).length ≤ 32 := by
  decide

/-- ReservedWordsAndBitsAreInert: the reserved offsets at the ends of their ranges, and words that differ in every
reserved bit. -/
theorem witness_ReservedWordsAndBitsAreInert :
    0x018 % 4 = 0 ∧ 0x01C % 4 = 0 ∧ (0x060 % 4 = 0 ∧ 0x060 ≤ 0x0FC) ∧ (0x0FC % 4 = 0 ∧ 0x060 ≤ 0x0FC) ∧
    (0x180 % 4 = 0 ∧ 0x180 ≤ 0xFFC) ∧ 0xFFC % 4 = 0 ∧
    (0x00000001 : Word).getLsbD 0 = (0xFFFFFFFF : Word).getLsbD 0 ∧
    (0x00000002 : Word).getLsbD 1 = (0xFFFFF00A : Word).getLsbD 1 ∧
    (0x00000002 : Word).getLsbD 2 = (0xFFFFF00A : Word).getLsbD 2 := by decide

/-- InterruptLineFollowsTheFlags: an acceptance, a completion and a reset with the interrupt enabled. -/
theorem witness_InterruptLineFollowsTheFlags :
    (let s : State := { idleState [.write 0x008 4 0x0] with ie := true, done := true }
     irq s = true ∧ s.busy = false ∧ s.err = false ∧
       after (step s) (fun t => (t.busy, irq t)) = some (true, false)) ∧
    ((pendingState .nop []).completing ≠ none ∧ ∃ t, step (pendingState .nop []) = .next t) ∧
    ((idleState [.reset]).nextIsReset = true ∧ ∃ t, step (idleState [.reset]) = .next t) :=
  ⟨by decide, ⟨by decide, ⟨_, rfl⟩⟩, by decide, ⟨_, rfl⟩⟩

/-- ResetGivesTheResetValues: a pending command abandoned. -/
theorem witness_ResetGivesTheResetValues :
    (pendingState .init [.reset]).busy = true ∧ (pendingState .init [.reset]).completing = none ∧
    after (step (pendingState .init [.reset])) State.busy = some false := by decide

/-- EveryAcceptedCommandCompletes: a dropped write and a poll before the completion. -/
theorem witness_EveryAcceptedCommandCompletes :
    (pendingState .init [.write 0x020 4 5, .read 0x00C 4]).busy = true ∧
    ∀ e ∈ (pendingState .init [.write 0x020 4 5, .read 0x00C 4]).agenda, e ≠ .reset ∧ e.admitted = true := by
  decide

/-- WaitLoopsWhileBusy: the `wait` on line 1 of a two-line script, with a command pending and with none. -/
theorem witness_WaitLoopsWhileBusy :
    let y : System := ⟨⟨expandFrom 0 [.cmd .init, .wait], 1, []⟩, pendingState .init []⟩
    y.host.pc = 1 ∧ (∀ j < 3, y.host.code[1 + j]? = (expandLine 1 .wait)[j]?) ∧
    (∀ j < 1, y.host.code[j]? ≠ some (.label (.wait 1))) ∧ y.core.busy = true ∧
    ({ y with core := State.reset } : System).core.busy = false := by decide

/-- SystemTurnIsAtMostOneStep: a write, a label and a completion. -/
theorem witness_SystemTurnIsAtMostOneStep :
    let y : System := ⟨⟨expandFrom 0 [.cmd .init, .wait], 0, []⟩, State.reset⟩
    (y.event .host = some (.write 0x008 4 0x1) ∧ ∃ z, y.turn .host = .next z ∧ z.core.busy = true) ∧
    (({ y with host := { y.host with pc := 1 } } : System).event .host = none ∧
      ∃ z, ({ y with host := { y.host with pc := 1 } } : System).turn .host = .next z) ∧
    ∃ z, ({ y with core := pendingState .nop [] } : System).turn .engine = .next z :=
  ⟨⟨rfl, ⟨_, rfl, rfl⟩⟩, ⟨rfl, ⟨_, rfl⟩⟩, ⟨_, rfl⟩⟩

/-- The check of a driver alone, at line 0, with the `fail` label after it. -/
def checkSystem (s : State) : System := ⟨⟨expandFrom 0 (checkLines ++ [.prim (.label (.named "fail"))]), 0, []⟩, s⟩

/-- DriverChecksTheStatus, on a core whose tag stands and on one with an error recorded. -/
theorem witness_DriverChecksTheStatus :
    (checkSystem State.reset).host.pc = 0 ∧
    (∀ j < 4, (checkSystem State.reset).host.code[0 + j]? = (expandFrom 0 checkLines)[j]?) ∧
    (checkSystem State.reset).host.code[4]? = some (.label (.named "fail")) ∧
    (∀ j < 4, (checkSystem State.reset).host.code[j]? ≠ some (.label (.named "fail"))) ∧
    (let s : State := { State.reset with phase := .finalized, tagValid := true, done := true }
     s.err = false ∧ s.tagValid = true ∧ s.raw = false) ∧
    { State.reset with err := true, errcode := 2 }.err = true := by decide

/-- R284 step 6: RAW = 1 sends the driver to `fail` at its third branch, and a valid tag lets it pass. -/
theorem test_driver_check :
    (match (checkSystem { State.reset with tagValid := true, raw := true }).hostTurns 4 with
      | .next z => z.host.pc
      | .refused _ => 99
      | .unreadName _ => 99
      | .noLabel _ => 99) = 4 ∧
    (match (checkSystem { State.reset with err := true, errcode := 2 }).hostTurns 2 with
      | .next z => z.host.pc
      | .refused _ => 99
      | .unreadName _ => 99
      | .noLabel _ => 99) = 4 ∧
    (match (checkSystem { State.reset with tagValid := true }).hostTurns 3 with
      | .next z => z.host.pc
      | .refused _ => 99
      | .unreadName _ => 99
      | .noLabel _ => 99) = 3 := by decide

/-- R252, R284 step 1: an absent buffer is rejected; the empty one is INIT, FINALIZE, the check and the tag. -/
theorem test_driver_absent_and_empty :
    driver ⟨[], 0, false⟩ none = .error .invalidInput ∧
    driver ⟨[], 0, false⟩ (some []) = .ok ([.cmd .init, .wait, .cmd .finalize, .wait] ++ checkLines ++
      [.rdtag "t", .prim (.label (.named "fail"))]) := ⟨rfl, rfl⟩

/-- R284 step 4: one remaining byte is one DIN word, whose other bytes are the driver's. -/
theorem test_driver_tail :
    loadLines ⟨[0xff, 0xff, 0xff], 0, false⟩ [0x61] = [.prim (.wr 0x020 0xFFFFFF61)] := by decide +kernel

/-- StepKeepsTheInvariant. -/
theorem witness_StepKeepsTheInvariant :
    (absorbPending 256 32 []).Inv ∧ ∃ t, step (absorbPending 256 32 []) = .next t :=
  ⟨absorbPending_inv _ _ _ (by decide) (by decide) (by decide), ⟨_, rfl⟩⟩

/-- UnspecifiedReadsNeverReachTheCore: states that differ in replies and draws, going on and refused. -/
theorem witness_UnspecifiedReadsNeverReachTheCore :
    (let u := { idleState [.write 0x008 4 0x1] with replies := [(0x040, 5)], draws := 3 }
     (idleState [.write 0x008 4 0x1]).arch = u.arch ∧ (idleState [.write 0x008 4 0x1]).agenda = u.agenda ∧
       ∃ t, step (idleState [.write 0x008 4 0x1]) = .next t) ∧
    step (idleState [.read 0x001 4]) = .refused .misaligned := ⟨⟨rfl, rfl, ⟨_, rfl⟩⟩, rfl⟩

/-- StepKeepsTheConstruction: 32 bytes absorbed and ABSORB 1 pending. -/
theorem witness_StepKeepsTheConstruction :
    let b := List.replicate 32 (0xff : Byte)
    let s := { absorbPending 256 1 [.engine] with S := absorbAll b }
    s.Inv ∧ Absorbed b s ∧ (∃ t, step s = .next t) ∧ absorbedAfter (some b) s = some (b ++ [0]) := by
  intro b s
  refine ⟨?_, ⟨rfl, by decide, by decide, by decide, rfl⟩, ⟨_, rfl⟩, ?_⟩
  · have h := absorbPending_inv 256 1 [.engine] (by decide) (by decide) (by decide)
    exact ⟨h.1, h.2, h.3, h.4, h.5, h.6, h.7, h.8, h.9, h.10, h.11⟩
  · rfl

/-- TagIsTheChecksumOfTheAbsorbedBytes: INIT, ABSORB 2 and an accepted FINALIZE, watched from a pending INIT. -/
theorem witness_TagIsTheChecksumOfTheAbsorbedBytes :
    let s := pendingState .init [.engine, .write 0x008 4 0x00000202, .engine, .write 0x008 4 0x00000003]
    s.Inv ∧ ∃ u, watch 4 none s = some (some [0, 0], u) ∧ u.completing = some .finalize := by
  refine ⟨?_, _, rfl, rfl⟩
  constructor <;> decide

/-- DriverComputesTheChecksum: a one-byte input from reset, for a driver that erases and one that does not. -/
theorem witness_DriverComputesTheChecksum :
    State.reset.busy = false ∧ [(0x61 : Byte)].length ≤ 2 ^ 61 - 1 ∧
    (⟨[], 0, false⟩ : DriverChoice).erase = false ∧ (⟨[0xff], 7, true⟩ : DriverChoice).erase = true := by decide

end Sys2Proof.Tests
end

section
/-! SUPPORT. The step taken apart by what decides it: a completion, a reset, a host write, or nothing that
reaches the architectural state. -/

namespace Sys2Proof.Machine

/-- R221: the step that completes a command runs exactly that command. -/
theorem step_completes {s t : State} {i : Instr} (h : step s = .next t) (hc : s.completing = some i) :
    exec i { s with agenda := s.agenda.tail } = .next t := by
  rcases step_cases h with ⟨-, hc', -, -, hx⟩ | ⟨-, hc', -⟩ | ⟨hc', -⟩ | ⟨hc', -⟩ | ⟨hc', -⟩
  · obtain rfl : s.pending = i := Option.some.inj (hc'.symm.trans hc)
    exact hx
  all_goals cases hc'.symm.trans hc

/-- R280: a reset step puts every register at its reset value, whatever is pending. -/
theorem step_resets {s t : State} (h : step s = .next t) (hr : s.nextIsReset = true) :
    t = resetCore { s with agenda := s.agenda.tail } := by
  rcases step_cases h with ⟨-, -, hr', -⟩ | ⟨-, -, hr', -⟩ | ⟨-, hr', -⟩ | ⟨-, hr', -⟩ | ⟨-, -, -, ht⟩
  case inr.inr.inr.inr => exact ht
  all_goals cases hr'.symm.trans hr

/-- R73: a step that is a host write is nothing else. -/
theorem step_writes {s t : State} {r : Reg} {v : Word} (h : step s = .next t)
    (hw : s.nextWrite = some (r, v)) : t = writeReg r v { s with agenda := s.agenda.tail } := by
  rcases step_cases h with
    ⟨-, -, -, hw', -⟩ | ⟨-, -, -, hw', -⟩ | ⟨-, -, hw', -⟩ | ⟨-, -, r', v', hw', ht⟩ | ⟨-, -, hw', -⟩
  case inr.inr.inr.inl =>
    cases hw'.symm.trans hw
    exact ht
  all_goals cases hw'.symm.trans hw

/-- R20, R72: an idle turn and a read leave the architectural state alone. -/
theorem step_passes {s t : State} (h : step s = .next t) (hc : s.completing = none)
    (hr : s.nextIsReset = false) (hw : s.nextWrite = none) : t.arch = s.arch := by
  rcases step_cases h with
    ⟨-, hc', -⟩ | ⟨-, -, -, -, rfl⟩ | ⟨-, -, -, off, width, o, rest, -, -, rfl⟩ | ⟨-, -, r, v, hw', -⟩ |
      ⟨-, hr', -⟩
  · cases hc'.symm.trans hc
  · rfl
  · simp [State.arch]
  · cases hw'.symm.trans hw
  · cases hr'.symm.trans hr

/-- R221: every completion ends in `finish`. -/
theorem exec_finishes {i : Instr} {s t : State} (h : exec i s = .next t) : ∃ u, t = finish u := by
  rcases exec_cases h with
    ⟨-, ht⟩ | ⟨-, ht⟩ | ⟨n, -, ht⟩ | ⟨-, ht⟩ | ⟨-, ht⟩ | ⟨-, ht⟩ | ⟨-, ht⟩ <;> exact ⟨_, ht⟩

/-! What a host write leaves of the construction's flags. -/

/-- R220: acceptance changes none of the construction's flags, whether it accepts or refuses. -/
theorem acceptCommand_construction (v : Word) (s : State) :
    (acceptCommand v s).phase = s.phase ∧ (acceptCommand v s).tail = s.tail ∧
      (acceptCommand v s).raw = s.raw ∧ (acceptCommand v s).tagValid = s.tagValid := by
  rcases acceptCommand_cases v s with ⟨e, he⟩ | ⟨i, -, -, -, he⟩ <;> simp [he]

@[simp] theorem writeReg_phase (r : Reg) (v : Word) (s : State) : (writeReg r v s).phase = s.phase := by
  cases r <;> simp [writeReg, acceptCommand_construction]

@[simp] theorem writeReg_tail (r : Reg) (v : Word) (s : State) : (writeReg r v s).tail = s.tail := by
  cases r <;> simp [writeReg, acceptCommand_construction]

@[simp] theorem writeReg_tagValid (r : Reg) (v : Word) (s : State) :
    (writeReg r v s).tagValid = s.tagValid := by
  cases r <;> simp [writeReg, acceptCommand_construction]

/-- R30: of the host's writes only an accepted STATE write touches RAW, and it sets it. -/
theorem writeReg_raw (r : Reg) (v : Word) (s : State) :
    (writeReg r v s).raw =
      if s.busy = false ∧ ∃ b w, r = .state b w then true else s.raw := by
  cases r <;> simp [writeReg, acceptCommand_construction]

/-- R33, R73: the host write clears DONE, as a STATUS write with bit 1 set does. -/
def clearsDone (w : Reg × Word) : Bool := w.1 == .status && w.2.getLsbD 1

/-- R32, R33, R73: a host write either is the acceptance of a command, or leaves BUSY and PENDING alone and
DONE too, unless it is a STATUS write with bit 1 set. -/
theorem writeReg_begins_or_keeps (r : Reg) (v : Word) (s : State) :
    (∃ i, r = .cmd ∧ s.busy = false ∧ decode v = .cmd i ∧ acceptanceError i s = none ∧
      writeReg r v s = beginCommand i s) ∨
    ((writeReg r v s).busy = s.busy ∧ (writeReg r v s).pending = s.pending ∧
      (writeReg r v s).done = (!clearsDone (r, v) && s.done)) := by
  cases r with
  | cmd =>
    rcases acceptCommand_cases v s with ⟨e, he⟩ | ⟨i, hb, hd, ha, he⟩
    · exact .inr (by simp [writeReg, clearsDone, he])
    · exact .inl ⟨i, rfl, hb, hd, ha, he⟩
  | _ => exact .inr (by simp [writeReg, clearsDone])

/-- R28, R29, R31: only completions and reset change PHASE, TAIL and TAG_VALID. -/
theorem step_keeps_construction {s t : State} (h : step s = .next t) (hc : s.completing = none)
    (hr : s.nextIsReset = false) :
    t.phase = s.phase ∧ t.tail = s.tail ∧ t.tagValid = s.tagValid := by
  rcases hw : s.nextWrite with _ | ⟨r, v⟩
  · have ha := step_passes h hc hr hw
    exact ⟨(congrArg State.phase ha :), (congrArg State.tail ha :), (congrArg State.tagValid ha :)⟩
  · simp [step_writes h hw]

/-- R32, R33: a step that neither completes nor resets either accepts a command, or leaves BUSY and PENDING
alone and DONE too, unless it is a STATUS write with bit 1 set. -/
theorem step_begins_or_keeps {s t : State} (h : step s = .next t) (hc : s.completing = none)
    (hr : s.nextIsReset = false) :
    (s.busy = false ∧ t.busy = true ∧ t.done = false ∧
      ∃ v : Word, s.nextWrite = some (.cmd, v) ∧ decode v = .cmd t.pending ∧
        acceptanceError t.pending s = none) ∨
    (t.busy = s.busy ∧ t.pending = s.pending ∧ t.done = (!s.nextWrite.any clearsDone && s.done)) := by
  rcases hw : s.nextWrite with _ | ⟨r, v⟩
  · have ha := step_passes h hc hr hw
    exact .inr ⟨(congrArg State.busy ha :), (congrArg State.pending ha :), (congrArg State.done ha :)⟩
  · have ht := step_writes h hw
    rcases writeReg_begins_or_keeps r v { s with agenda := s.agenda.tail } with
      ⟨i, rfl, hb, hd, ha, he⟩ | ⟨hbusy, hpend, hdone⟩
    · obtain rfl := ht.trans he
      exact .inl ⟨hb, rfl, rfl, v, rfl, hd, (acceptanceError_congr rfl rfl rfl).trans ha⟩
    · subst ht
      exact .inr ⟨hbusy, hpend, hdone⟩

/-- R220: the step of a CMD write that the state accepts. -/
theorem step_accepts {s t : State} {v : Word} {i : Instr} (h : step s = .next t) (hb : s.busy = false)
    (hw : s.nextWrite = some (.cmd, v)) (hd : decode v = .cmd i) (ha : acceptanceError i s = none) :
    t = beginCommand i { s with agenda := s.agenda.tail } :=
  (step_writes h hw).trans
    (acceptCommand_accepts v i _ hb hd ((acceptanceError_congr rfl rfl rfl).trans ha))

/-! The encoder's words decode to their commands, and what acceptance makes of an ABSORB. -/

/-- R91: the layout of the word of every command. -/
theorem encodingLayout (i : Instr) : Laws.EncodingLayout.Statement i := by
  cases i with
  | nop => exact Laws.EncodingLayout.nop
  | init => exact Laws.EncodingLayout.init
  | absorb n => exact Laws.EncodingLayout.absorb n
  | finalize => exact Laws.EncodingLayout.finalize
  | update => exact Laws.EncodingLayout.update
  | round => exact Laws.EncodingLayout.round
  | clear => exact Laws.EncodingLayout.clear

/-- R92, R95: an ABSORB is a command when it takes 1 to 32 bytes. -/
theorem absorb_wellFormed_iff (n : BitVec 6) :
    (Instr.absorb n).WellFormed ↔ 1 ≤ n.toNat ∧ n.toNat ≤ 32 := by
  simp [Instr.WellFormed, Instr.wellFormed]

/-- R94: the decoder reads a legal command back from its word. -/
theorem decode_encode {i : Instr} (hi : i.WellFormed) : decode (encode i) = .cmd i := by
  obtain ⟨hop, hlen, hrsv0, hrsv1⟩ := encodingLayout i
  simp only [decode, hop, hlen, hrsv0, hrsv1]
  cases i with
  | absorb n =>
    obtain ⟨hlo, hhi⟩ := (absorb_wellFormed_iff n).1 hi
    have hin : ¬ (n.toNat = 0 ∨ 32 < n.toNat) := by omega
    simp [opcodeOf, lenOf, commandOf, hin]
  | _ => rfl

/-- R29, R220: while TAIL = 1 every ABSORB is out of sequence. -/
theorem acceptanceError_absorb_of_tail (n : BitVec 6) {s : State} (ht : s.tail = true) :
    acceptanceError (.absorb n) s = some .sequence := by
  simp [acceptanceError, ht]

/-- R220: a CMD write of a command that the state does not accept records the reason and starts nothing. -/
theorem acceptCommand_refuses {v : Word} {i : Instr} {s : State} {e : ErrorCode} (hb : s.busy = false)
    (hd : decode v = .cmd i) (ha : acceptanceError i s = some e) : acceptCommand v s = raiseError e s := by
  simp [acceptCommand, hb, hd, ha]

/-- R29: the write of an ABSORB while TAIL = 1 records SEQUENCE and starts nothing. -/
theorem step_write_absorb_of_tail (s : State) (rest : List Event) {n : BitVec 6} (hb : s.busy = false)
    (ht : s.tail = true) (hn : (Instr.absorb n).WellFormed) :
    step { s with agenda := .write 0x008 4 (encode (.absorb n)) :: rest } =
      .next (raiseError .sequence { s with agenda := rest }) :=
  (step_write s rest 0x008 _ (by decide) (by decide)).trans <|
    congrArg _ (acceptCommand_refuses hb (decode_encode hn) (acceptanceError_absorb_of_tail n ht))

/-- R94: in a state of the invariant the command a step completes is a legal one. -/
theorem completing_wellFormed {s : State} {i : Instr} (hinv : s.Inv) (hc : s.completing = some i) :
    i.WellFormed := by
  unfold State.completing at hc
  split at hc
  case isFalse => cases hc
  case isTrue hb =>
    have hp := hinv.pendingLegal hb
    split at hc <;> cases hc <;> exact hp

end Sys2Proof.Machine
end

section
/-! The obligations about DONE, BUSY, PHASE, TAIL, RAW and TAG_VALID after every step. -/

open Sys2Proof Sys2Proof.Machine

/-- Settles O30: a completion sets DONE, reset clears it, and of the writes only an acceptance and a STATUS write
touch it. -/
theorem doneFollowsTheCommand : Obligations.DoneFollowsTheCommand := by
  intro s t h
  cases hc : s.completing with
  | some i =>
    obtain ⟨u, rfl⟩ := exec_finishes (step_completes h hc)
    rfl
  | none =>
    cases hr : s.nextIsReset with
    | true => rw [step_resets h hr]; rfl
    | false =>
      rcases step_begins_or_keeps h hc hr with ⟨hb, hbt, hdone, -⟩ | ⟨hbusy, -, hdone⟩
      · simp [hb, hbt, hdone]
      · rw [hbusy, hdone]
        rcases s.nextWrite with _ | ⟨r, v⟩
        · simp
        · cases r <;> simp [clearsDone]

/-- Settles O31: completion and reset end the pending command, and `step_begins_or_keeps` says what every other
step does. -/
theorem oneCommandAtATime : Obligations.OneCommandAtATime := by
  intro s t h
  have haccept : ∀ (v : Word) (i : Instr), s.busy = false → s.nextWrite = some (.cmd, v) →
      decode v = .cmd i → acceptanceError i s = none → t.busy = true ∧ t.pending = i :=
    fun v i hb hw hd ha => by simp [step_accepts h hb hw hd ha]
  cases hc : s.completing with
  | some i =>
    obtain ⟨u, rfl⟩ := exec_finishes (step_completes h hc)
    exact ⟨by simp, by simp, by simp, haccept⟩
  | none =>
    cases hr : s.nextIsReset with
    | true =>
      have hbt : t.busy = false := by rw [step_resets h hr]; rfl
      exact ⟨by simp [hbt], by simp [hbt], by simp [hbt], haccept⟩
    | false =>
      rcases step_begins_or_keeps h hc hr with ⟨hb, hbt, -, hv⟩ | ⟨hbusy, hpend, -⟩
      · exact ⟨by simp [hb], by simp [hb], fun _ _ => hv, haccept⟩
      · exact ⟨fun hb => by simp [hbusy, hb], fun _ _ => hpend,
          fun hb hbt => by simp [hbusy, hb] at hbt, haccept⟩

/-- Settles O32: a completion by its command, reset by its reset value, and every other step by
`step_keeps_construction`. -/
theorem phaseFollowsTheConstruction : Obligations.PhaseFollowsTheConstruction := by
  intro s t h
  cases hc : s.completing with
  | some i =>
    rcases exec_cases (step_completes h hc) with
      ⟨rfl, rfl⟩ | ⟨rfl, rfl⟩ | ⟨n, rfl, rfl⟩ | ⟨rfl, rfl⟩ | ⟨rfl, rfl⟩ | ⟨rfl, rfl⟩ | ⟨rfl, rfl⟩ <;> rfl
  | none =>
    cases hr : s.nextIsReset with
    | true => rw [step_resets h hr]; rfl
    | false => exact congrArg Phase.code (step_keeps_construction h hc hr).1

/-- Settles O33: the refusal by the decoder and acceptance's check of TAIL, and TAIL after a step as for PHASE
(O32), where the invariant bounds ABSORB's length by 32. -/
theorem tailMarksAShortChunk : Obligations.TailMarksAShortChunk := by
  refine ⟨fun s rest n hb ht hn => step_write_absorb_of_tail s rest hb ht hn, fun s t hinv h => ?_⟩
  cases hc : s.completing with
  | some i =>
    rcases exec_cases (step_completes h hc) with
      ⟨rfl, rfl⟩ | ⟨rfl, rfl⟩ | ⟨n, rfl, rfl⟩ | ⟨rfl, rfl⟩ | ⟨rfl, rfl⟩ | ⟨rfl, rfl⟩ | ⟨rfl, rfl⟩
    case inr.inr.inl =>
      obtain ⟨-, hhi⟩ := (absorb_wellFormed_iff n).1 (completing_wellFormed hinv hc)
      exact decide_eq_decide.2 (by omega)
    all_goals rfl
  | none =>
    cases hr : s.nextIsReset with
    | true => rw [step_resets h hr]; rfl
    | false => exact (step_keeps_construction h hc hr).2.1

/-- Settles O34: as for PHASE (O32), but a STATE write that BUSY = 0 admits sets RAW, by `writeReg_raw`. -/
theorem rawMarksForeignChanges : Obligations.RawMarksForeignChanges := by
  intro s t h
  cases hc : s.completing with
  | some i =>
    rcases exec_cases (step_completes h hc) with
      ⟨rfl, rfl⟩ | ⟨rfl, rfl⟩ | ⟨n, rfl, rfl⟩ | ⟨rfl, rfl⟩ | ⟨rfl, rfl⟩ | ⟨rfl, rfl⟩ | ⟨rfl, rfl⟩ <;> rfl
  | none =>
    cases hr : s.nextIsReset with
    | true => rw [step_resets h hr]; rfl
    | false =>
      rcases hw : s.nextWrite with _ | ⟨r, v⟩
      · have hraw : t.raw = s.raw := (congrArg State.raw (step_passes h hc hr hw) :)
        simp [hraw]
      · rw [step_writes h hw, writeReg_raw]
        cases r <;> cases hb : s.busy <;> simp

/-- Settles O35: as for PHASE (O32). -/
theorem tagValidFollowsFinalize : Obligations.TagValidFollowsFinalize := by
  intro s t h
  cases hc : s.completing with
  | some i =>
    rcases exec_cases (step_completes h hc) with
      ⟨rfl, rfl⟩ | ⟨rfl, rfl⟩ | ⟨n, rfl, rfl⟩ | ⟨rfl, rfl⟩ | ⟨rfl, rfl⟩ | ⟨rfl, rfl⟩ | ⟨rfl, rfl⟩ <;> rfl
  | none =>
    cases hr : s.nextIsReset with
    | true => rw [step_resets h hr]; rfl
    | false => exact (step_keeps_construction h hc hr).2.2

end

section
/-! SUPPORT. The register window from the host's side: the offset of each register, the accesses that are refused,
and what a write does to CTRL and STATUS, to a reserved word, and to a word that BUSY = 1 protects. -/

namespace Sys2Proof.Machine

/-! Offsets. -/

/-- R61: the map sends a named register's offset back to the register. -/
theorem regAt_of_offset {r : Reg} {off : Nat} (h : r.offset = some off) : regAt off = r := by
  cases r with
  | reserved => cases h
  | din w => cases h; revert w; decide
  | tag w => cases h; revert w; decide
  | rndout w => cases h; revert w; decide
  | state b w => cases h; revert b w; decide
  | _ => cases h; rfl

/-- R61: a named register's offset is one that R69 admits. -/
theorem offset_admitted {r : Reg} {off : Nat} (h : r.offset = some off) : off % 4 = 0 ∧ off < windowSize := by
  unfold windowSize
  cases r with
  | reserved => cases h
  | din w => cases h; omega
  | tag w => cases h; omega
  | rndout w => cases h; omega
  | state b w => cases h; omega
  | _ => cases h; decide

/-- R74: nothing is mapped at the reserved offsets. -/
theorem regAt_reserved {off : Nat}
    (h : off = 0x018 ∨ off = 0x01C ∨ (0x060 ≤ off ∧ off ≤ 0x0FC) ∨ (0x180 ≤ off ∧ off ≤ 0xFFC)) :
    regAt off = .reserved := by
  unfold regAt
  iterate 10 rw [if_neg (by omega)]

/-! Refused accesses. -/

/-- R70: an access that R69 does not admit is refused. -/
theorem checkAccess_refuses {off : Int} {width : Nat}
    (h : width ≠ 4 ∨ off % 4 ≠ 0 ∨ off < 0 ∨ 0x1000 ≤ off) : ∃ r, checkAccess off width = .error r := by
  unfold checkAccess windowSize
  split
  · exact ⟨_, rfl⟩
  · split
    · exact ⟨_, rfl⟩
    · split
      · exact ⟨_, rfl⟩
      · omega

/-- R70: the step of a read that is not admitted. -/
theorem step_read_refused (s : State) (rest : List Event) {off : Int} {width : Nat} {r : Refusal}
    (h : checkAccess off width = .error r) :
    step { s with agenda := .read off width :: rest } = .refused r := by
  simp [step, turn, h]

/-- R70: the step of a write that is not admitted. -/
theorem step_write_refused (s : State) (rest : List Event) {off : Int} {width : Nat} (v : Word) {r : Refusal}
    (h : checkAccess off width = .error r) :
    step { s with agenda := .write off width v :: rest } = .refused r := by
  simp [step, turn, h]

/-! Writes, by the register they reach. -/

/-- R73: the step of a write at a named register's offset. -/
theorem step_write_offset (s : State) (rest : List Event) (v : Word) {r : Reg} {off : Nat}
    (h : r.offset = some off) :
    step { s with agenda := .write off 4 v :: rest } = .next (writeReg r v { s with agenda := rest }) := by
  obtain ⟨hal, hlt⟩ := offset_admitted h
  rw [step_write s rest off v hal hlt, regAt_of_offset h]

/-- R73: the whole of what a STATUS write does. -/
theorem writeStatus_eq (v : Word) (s : State) :
    writeStatus v s = { s with
      done := if v.getLsbD 1 then false else s.done
      err := if v.getLsbD 2 then false else s.err
      errcode := if v.getLsbD 2 then 0 else s.errcode } := by
  unfold writeStatus
  cases v.getLsbD 1 <;> cases v.getLsbD 2 <;> rfl

/-- R73: the step of a CTRL write, whether or not a command is pending. -/
theorem step_write_ctrl (s : State) (rest : List Event) (v : Word) :
    step { s with agenda := .write 0x004 4 v :: rest } =
      .next { s with agenda := rest, ie := v.getLsbD 0 } :=
  step_write_offset s rest v (r := .ctrl) rfl

/-- R73: the step of a STATUS write, whether or not a command is pending. -/
theorem step_write_status (s : State) (rest : List Event) (v : Word) :
    step { s with agenda := .write 0x00C 4 v :: rest } =
      .next { s with
        agenda := rest
        done := if v.getLsbD 1 then false else s.done
        err := if v.getLsbD 2 then false else s.err
        errcode := if v.getLsbD 2 then 0 else s.errcode } :=
  (step_write_offset s rest v (r := .status) rfl).trans (congrArg _ (writeStatus_eq v _))

/-! Writes while BUSY = 1. -/

/-- R76: the registers whose writes are dropped while BUSY = 1. -/
def Reg.protectedWhileBusy : Reg → Bool
  | .cmd => true
  | .din _ => true
  | .state _ _ => true
  | _ => false

/-- R76: a write to CMD, DIN or STATE while BUSY = 1 only records BUSY_WRITE. -/
theorem writeReg_dropped {r : Reg} {s : State} (v : Word) (hb : s.busy = true)
    (hr : r.protectedWhileBusy = true) : writeReg r v s = raiseError .busyWrite s := by
  cases r with
  | cmd => exact acceptCommand_busy v s hb
  | din w => simp [writeReg, writeDin, hb]
  | state b w => simp [writeReg, writeState, hb]
  | _ => cases hr

/-- R76: no host write changes an operand of the pending command, or the command. -/
theorem writeReg_keeps_operands (r : Reg) (v : Word) {s : State} (hb : s.busy = true) :
    (writeReg r v s).S = s.S ∧ (writeReg r v s).din = s.din ∧ (writeReg r v s).pending = s.pending := by
  cases r with
  | cmd => simp [writeReg, acceptCommand_busy v s hb]
  | din w => simp [writeReg, hb]
  | state b w => simp [writeReg, hb]
  | _ => simp [writeReg]

/-! The reserved bits of CTRL and STATUS. -/

/-- R43, R74: bits 1 to 31 of CTRL read 0. -/
theorem ctrlWord_reservedBits (s : State) : ctrlWord s &&& 0xFFFFFFFE = 0 := by
  unfold ctrlWord
  cases s.ie <;> decide

/-- R42, R74: each field of STATUS keeps clear of the reserved bits 3 and 12 to 31. -/
theorem statusWord_reservedBits (s : State) : statusWord s &&& 0xFFFFF008 = 0 := by
  have hflag : ∀ b : Bool, flagBit b &&& 0xFFFFF008 = 0 ∧ flagBit b <<< 1 &&& 0xFFFFF008 = 0 ∧
      flagBit b <<< 2 &&& 0xFFFFF008 = 0 ∧ flagBit b <<< 6 &&& 0xFFFFF008 = 0 ∧
      flagBit b <<< 7 &&& 0xFFFFF008 = 0 ∧ flagBit b <<< 11 &&& 0xFFFFF008 = 0 := by decide
  have hphase : ∀ c : BitVec 2, c.setWidth 32 <<< 4 &&& (0xFFFFF008 : Word) = 0 := by decide
  have hcode : ∀ c : BitVec 3, c.setWidth 32 <<< 8 &&& (0xFFFFF008 : Word) = 0 := by decide
  simp only [statusWord, BitVec.and_or_distrib_right, hflag, hphase, hcode, BitVec.or_self]

end Sys2Proof.Machine
end

section
/-! The obligations about which accesses the register window admits, reads, reserved words and bits, and writes
while BUSY = 1. -/

open Sys2Proof Sys2Proof.Machine

/-- Settles O26: a dropped write by its register, and the last clause because a step that neither completes nor
resets either passes or is a host write. -/
theorem busyWritesAreDropped : Obligations.BusyWritesAreDropped := by
  refine ⟨fun s rest v off hb hoff => ?_,
    fun s rest v _ => ⟨step_write_ctrl s rest v, step_write_status s rest v⟩, fun s t hb hc hr h => ?_⟩
  · obtain ⟨r, hr, hprot⟩ : ∃ r : Reg, r.offset = some off ∧ r.protectedWhileBusy = true := by
      rcases hoff with rfl | ⟨w, hw, rfl⟩ | ⟨b, hb8, w, hw, rfl⟩
      · exact ⟨.cmd, rfl, rfl⟩
      · exact ⟨.din ⟨w, hw⟩, rfl, rfl⟩
      · exact ⟨.state ⟨b, hb8⟩ ⟨w, hw⟩, rfl, rfl⟩
    exact (step_write_offset s rest v hr).trans (congrArg _ (writeReg_dropped v hb hprot))
  · rcases hw : s.nextWrite with _ | ⟨r, v⟩
    · have ha := step_passes h hc hr hw
      exact ⟨(congrArg State.S ha :), (congrArg State.din ha :), (congrArg State.pending ha :)⟩
    · rw [step_writes h hw]
      exact writeReg_keeps_operands r v hb

/-- Settles O38: both kinds of access are refused by `checkAccess`, and an admitted offset is a natural number. -/
theorem onlyAlignedWordAccessesAreAdmitted : Obligations.OnlyAlignedWordAccessesAreAdmitted := by
  refine fun s rest off width v => ⟨fun hbad => ?_, fun hw hal hlo hhi => ?_⟩
  · obtain ⟨r, hr⟩ := checkAccess_refuses hbad
    exact ⟨⟨r, step_read_refused s rest hr⟩, ⟨r, step_write_refused s rest v hr⟩⟩
  · obtain ⟨n, rfl⟩ := Int.eq_ofNat_of_zero_le hlo
    have hin : n % 4 = 0 ∧ n < windowSize := by simp only [windowSize]; omega
    subst hw
    exact ⟨⟨_, step_read s rest n hin.1 hin.2⟩, ⟨_, step_write s rest n v hin.1 hin.2⟩⟩

/-- Settles O43: a read is no completion, no reset and no write. -/
theorem readsHaveNoSideEffects : Obligations.ReadsHaveNoSideEffects := by
  intro s t rest off width hag h
  have hc : s.completing = none := by simp [State.completing, hag]
  have hr : s.nextIsReset = false := by simp [State.nextIsReset, hag]
  have hw : s.nextWrite = none := by simp [State.nextWrite, hag]
  exact step_passes h hc hr hw

/-- Settles O47: the reserved offsets map to `Reg.reserved`, and CTRL and STATUS writes look at their named bits
only. -/
theorem reservedWordsAndBitsAreInert : Obligations.ReservedWordsAndBitsAreInert := by
  refine ⟨fun s rest v off hal hoff => ?_, fun s => ⟨ctrlWord_reservedBits s, statusWord_reservedBits s⟩,
    fun s rest v u h0 => ?_, fun s rest v u h1 h2 => ?_⟩
  · have hlt : off < windowSize := by simp only [windowSize]; omega
    have hreg := regAt_reserved hoff
    rw [step_read s rest off hal hlt, step_write s rest off v hal hlt]
    exact ⟨by simp [hostRead, hreg, Reg.openWhileBusy, readReg], by simp [hreg, writeReg]⟩
  · rw [step_write_ctrl, step_write_ctrl, h0]
  · rw [step_write_status, step_write_status, h1, h2]

end

section
/-! SUPPORT. The command word from its fields: the words that decode to a command are the well-formed commands' own
words, and what acceptance makes of a word that does not decode. -/

namespace Sys2Proof.Machine

/-! The fields of a word. -/

/-- R91: the four fields, from the most significant down, make up the word. -/
theorem word_eq_fields (v : Word) : v = rsv1Field v ++ lenField v ++ rsv0Field v ++ opField v := by
  simp only [rsv1Field, lenField, rsv0Field, opField, BitVec.extractLsb'_append_extractLsb'_eq_extractLsb',
    BitVec.extractLsb'_eq_self]

/-- R91: words are equal when their four fields are. -/
theorem word_eq_iff_fields (v u : Word) :
    v = u ↔ opField v = opField u ∧ lenField v = lenField u ∧ rsv0Field v = rsv0Field u ∧
      rsv1Field v = rsv1Field u := by
  constructor
  · rintro rfl
    exact ⟨rfl, rfl, rfl, rfl⟩
  · rintro ⟨hop, hlen, hrsv0, hrsv1⟩
    rw [word_eq_fields v, word_eq_fields u, hop, hlen, hrsv0, hrsv1]

/-- R91: a word is a command's own when its fields are the command's opcode, its LEN, and zeros. -/
theorem encode_eq_iff (i : Instr) (v : Word) :
    encode i = v ↔ opField v = opcodeOf i ∧ lenField v = lenOf i ∧ rsv0Field v = 0 ∧ rsv1Field v = 0 := by
  obtain ⟨hop, hlen, hrsv0, hrsv1⟩ := encodingLayout i
  rw [eq_comm, word_eq_iff_fields, hop, hlen, hrsv0, hrsv1]

/-- R93: the row mask of ABSORB selects every field but LEN. -/
theorem absorbMask_eq_iff (v : Word) :
    v &&& 0xFFFFC0FF = 0x00000002 ↔ opField v = 2 ∧ rsv0Field v = 0 ∧ rsv1Field v = 0 := by
  have hop : opField (v &&& 0xFFFFC0FF) = opField v :=
    BitVec.extractLsb'_and.trans BitVec.and_allOnes
  have hlen : lenField (v &&& 0xFFFFC0FF) = 0 :=
    BitVec.extractLsb'_and.trans BitVec.and_zero
  have hrsv0 : rsv0Field (v &&& 0xFFFFC0FF) = rsv0Field v :=
    BitVec.extractLsb'_and.trans BitVec.and_allOnes
  have hrsv1 : rsv1Field (v &&& 0xFFFFC0FF) = rsv1Field v :=
    BitVec.extractLsb'_and.trans BitVec.and_allOnes
  obtain ⟨hop2, hlen2, hrsv02, hrsv12⟩ :
    opField 2 = 2 ∧ lenField 2 = 0 ∧ rsv0Field 2 = 0 ∧ rsv1Field 2 = 0 := by decide
  rw [word_eq_iff_fields, hop, hlen, hrsv0, hrsv1, hop2, hlen2, hrsv02, hrsv12]
  simp

/-! Decoding. -/

/-- R93: the command found for an opcode and a LEN has that opcode and, where LEN is zero beside every opcode
but ABSORB's, that LEN. -/
theorem commandOf_eq_cmd {op : BitVec 4} {len : BitVec 6} {i : Instr} (h : commandOf op len = .cmd i)
    (hlen : op.toNat ≠ 2 → len = 0) : op = opcodeOf i ∧ len = lenOf i := by
  unfold commandOf at h
  split at h
  case h_3 hop => cases h; exact ⟨BitVec.eq_of_toNat_eq hop, rfl⟩
  case h_8 => cases h
  all_goals
    next hop => cases h; exact ⟨BitVec.eq_of_toNat_eq hop, hlen (by omega)⟩

/-- R94: a word that decodes to a command has that command's fields, and the command is well formed. -/
theorem decode_eq_cmd {v : Word} {i : Instr} (h : decode v = .cmd i) : i.WellFormed ∧ encode i = v := by
  unfold decode at h
  split at h; · cases h
  next hrsv =>
  split at h; · cases h
  split at h; · cases h
  next hrange =>
  split at h; · cases h
  next hzero =>
  obtain ⟨hrsv0, hrsv1⟩ : rsv0Field v = 0 ∧ rsv1Field v = 0 := by simpa using hrsv
  obtain ⟨hop, hlen⟩ := commandOf_eq_cmd h fun hne =>
    BitVec.eq_of_toNat_eq (Decidable.not_not.1 fun hl => hzero ⟨hne, hl⟩)
  refine ⟨?_, (encode_eq_iff i v).2 ⟨hop, hlen, hrsv0, hrsv1⟩⟩
  cases i with
  | absorb n =>
    rw [hop, hlen] at hrange
    have hin : ¬ (n.toNat = 0 ∨ 32 < n.toNat) := fun hl => hrange ⟨rfl, hl⟩
    exact (absorb_wellFormed_iff n).2 (by omega)
  | _ => rfl

/-- R91 to R94: the words that decode to a command are the well-formed commands' own. -/
theorem decode_eq_cmd_iff (v : Word) (i : Instr) : decode v = .cmd i ↔ i.WellFormed ∧ encode i = v := by
  refine ⟨decode_eq_cmd, ?_⟩
  rintro ⟨hi, rfl⟩
  exact decode_encode hi

/-- R93: the row of a command without an operand fixes every bit of the word. -/
theorem decode_eq_cmd_iff_fixedRow {i : Instr} (hi : i.WellFormed) (v : Word) :
    decode v = .cmd i ↔ v &&& 0xFFFFFFFF = encode i := by
  have hmask : v &&& 0xFFFFFFFF = v := BitVec.and_allOnes
  rw [decode_eq_cmd_iff, hmask, eq_comm (a := v), and_iff_right hi]

/-- R93: the row of ABSORB fixes every field but LEN, which is the operand. -/
theorem decode_eq_absorb_iff (v : Word) (n : BitVec 6) :
    decode v = .cmd (.absorb n) ↔
      v &&& 0xFFFFC0FF = 0x00000002 ∧ n = lenField v ∧ 1 ≤ n.toNat ∧ n.toNat ≤ 32 := by
  rw [decode_eq_cmd_iff, encode_eq_iff, absorb_wellFormed_iff, absorbMask_eq_iff, eq_comm (a := n)]
  simp only [opcodeOf, lenOf]
  tauto

/-! Illegal words. -/

/-- R95: the fields of a word that is no command. -/
def illegalFields (v : Word) : Prop :=
  7 ≤ (opField v).toNat ∨ rsv0Field v ≠ 0 ∨ rsv1Field v ≠ 0 ∨
    (opField v = 2 ∧ (lenField v = 0 ∨ 33 ≤ (lenField v).toNat)) ∨ (opField v ≠ 2 ∧ lenField v ≠ 0)

/-- R95: no well-formed command's word has such fields. -/
theorem not_illegalFields_encode {i : Instr} (hi : i.WellFormed) : ¬ illegalFields (encode i) := by
  obtain ⟨hop, hlen, hrsv0, hrsv1⟩ := encodingLayout i
  rw [illegalFields, hop, hlen, hrsv0, hrsv1]
  cases i with
  | absorb n =>
    obtain ⟨hlo, hhi⟩ := (absorb_wellFormed_iff n).1 hi
    have hne : n ≠ 0#6 := by rintro rfl; exact absurd hlo (by decide)
    have hin : ¬ 33 ≤ n.toNat := by omega
    simp [opcodeOf, lenOf, hne, hin]
  | _ => simp [opcodeOf, lenOf]

/-- R95: a word with such fields does not decode. -/
theorem decode_of_illegalFields {v : Word} (h : illegalFields v) : ∃ why, decode v = .illegal why := by
  cases hd : decode v with
  | illegal why => exact ⟨why, rfl⟩
  | cmd i =>
    obtain ⟨hi, rfl⟩ := decode_eq_cmd hd
    exact absurd h (not_illegalFields_encode hi)

/-- R95, R220: a CMD write of a word that does not decode records ILLEGAL_CMD and starts nothing. -/
theorem acceptCommand_illegal {v : Word} {why : Illegal} {s : State} (hb : s.busy = false)
    (hd : decode v = .illegal why) : acceptCommand v s = raiseError .illegalCmd s := by
  simp [acceptCommand, hb, hd]

end Sys2Proof.Machine
end

section
/-! The obligations about which words are commands, and what a CMD write of any other word does. -/

open Sys2Proof Sys2Proof.Machine

/-- Settles O2: a command's row is its own word, with LEN left open for ABSORB. -/
theorem legalWordsAreTheTableRows : Obligations.LegalWordsAreTheTableRows := by
  intro v i
  cases i with
  | absorb n => exact decode_eq_absorb_iff v n
  | _ => exact decode_eq_cmd_iff_fixedRow rfl v

/-- Settles O25: a word with illegal fields does not decode, so acceptance only records ILLEGAL_CMD. -/
theorem illegalWordsOnlyRecordAnError : Obligations.IllegalWordsOnlyRecordAnError := by
  intro s rest v hb hv
  obtain ⟨why, hd⟩ := decode_of_illegalFields hv
  exact (step_write_offset s rest v (r := .cmd) rfl).trans (congrArg _ (acceptCommand_illegal hb hd))

end

namespace Sys2Proof.Machine

/-! What acceptance checks, command by command (R220, checks 3 and 4). -/

/-- R220: an ABSORB out of phase, or after a short chunk, is out of sequence. -/
theorem acceptanceError_absorb_outOfSequence (n : BitVec 6) {s : State}
    (h : ¬ ((s.phase = .initialized ∨ s.phase = .absorbing) ∧ s.tail = false)) :
    acceptanceError (.absorb n) s = some .sequence := by
  rw [← isOpen_iff] at h
  exact if_neg h

/-- R220: in sequence, an ABSORB has only its length left to check. -/
theorem acceptanceError_absorb_inSequence (n : BitVec 6) {s : State}
    (h : (s.phase = .initialized ∨ s.phase = .absorbing) ∧ s.tail = false) :
    acceptanceError (.absorb n) s =
      if s.adbits.toNat + 8 * n.toNat > 2 ^ 64 - 1 then some .lenOverflow else none := by
  rw [← isOpen_iff] at h
  exact if_pos h

/-- R220: FINALIZE needs an open construction, and nothing else. -/
theorem acceptanceError_finalize (s : State) :
    acceptanceError .finalize s =
      if s.phase = .initialized ∨ s.phase = .absorbing then none else some .sequence := by
  simp only [acceptanceError, isOpen_iff]

/-- R220: the other five commands are accepted in every phase. -/
theorem acceptanceError_anyPhase {i : Instr}
    (hi : i = .nop ∨ i = .init ∨ i = .update ∨ i = .round ∨ i = .clear) (s : State) :
    i.WellFormed ∧ acceptanceError i s = none := by
  rcases hi with rfl | rfl | rfl | rfl | rfl <;> exact ⟨rfl, rfl⟩

/-! The step of a CMD write. -/

/-- R73, R220: a CMD write is an acceptance, whatever the state. -/
theorem step_write_cmd (s : State) (rest : List Event) (v : Word) :
    step { s with agenda := .write 0x008 4 v :: rest } =
      .next (acceptCommand v { s with agenda := rest }) :=
  step_write_offset s rest v (r := .cmd) rfl

/-- R94: a word of no well-formed command does not decode. -/
theorem decode_of_ne_encode {v : Word} (h : ∀ i : Instr, i.WellFormed → encode i ≠ v) :
    ∃ why, decode v = .illegal why := by
  cases hd : decode v with
  | illegal why => exact ⟨why, rfl⟩
  | cmd i =>
    obtain ⟨hi, henc⟩ := decode_eq_cmd hd
    exact absurd henc (h i hi)

/-- R220: the write of a legal command that the state accepts begins it. -/
theorem step_write_encode_accepts {s : State} (rest : List Event) {i : Instr} (hb : s.busy = false)
    (hi : i.WellFormed) (ha : acceptanceError i s = none) :
    step { s with agenda := .write 0x008 4 (encode i) :: rest } =
      .next (beginCommand i { s with agenda := rest }) :=
  (step_write_cmd s rest _).trans <| congrArg _ <|
    acceptCommand_accepts _ i _ hb (decode_encode hi) ((acceptanceError_congr rfl rfl rfl).trans ha)

/-- R220: the write of a legal command that the state does not accept records the reason. -/
theorem step_write_encode_refuses {s : State} (rest : List Event) {i : Instr} {e : ErrorCode}
    (hb : s.busy = false) (hi : i.WellFormed) (ha : acceptanceError i s = some e) :
    step { s with agenda := .write 0x008 4 (encode i) :: rest } =
      .next (raiseError e { s with agenda := rest }) :=
  (step_write_cmd s rest _).trans <| congrArg _ <|
    acceptCommand_refuses hb (decode_encode hi) ((acceptanceError_congr rfl rfl rfl).trans ha)

end Sys2Proof.Machine

section
/-! The obligation about what a CMD write does. -/

open Sys2Proof Sys2Proof.Machine

/-- Settles O24: the checks in their order, each command by what its acceptance looks at. -/
theorem commandAcceptance : Obligations.CommandAcceptance := by
  intro s rest v write refuse accept inPhase
  refine ⟨fun hb => ?busy, fun hb hv => ?illegal, fun n hb hn hv => ?absorb, fun hb hv => ?finalize,
    fun i hb hi hv => ?anyPhase⟩
  case busy => exact (step_write_cmd s rest v).trans (congrArg _ (acceptCommand_busy v _ hb))
  case illegal =>
    obtain ⟨why, hd⟩ := decode_of_ne_encode hv
    exact (step_write_cmd s rest v).trans (congrArg _ (acceptCommand_illegal hb hd))
  case absorb =>
    subst hv
    refine ⟨fun hout => ?_, fun hin hover => ?_, fun hin hfits => ?_⟩
    · exact step_write_encode_refuses rest hb hn (acceptanceError_absorb_outOfSequence n hout)
    · exact step_write_encode_refuses rest hb hn
        ((acceptanceError_absorb_inSequence n hin).trans (if_pos hover))
    · exact step_write_encode_accepts rest hb hn
        ((acceptanceError_absorb_inSequence n hin).trans (if_neg hfits.not_gt))
  case finalize =>
    subst hv
    refine ⟨fun hout => ?_, fun hin => ?_⟩
    · exact step_write_encode_refuses rest hb rfl ((acceptanceError_finalize s).trans (if_neg hout))
    · exact step_write_encode_accepts rest hb rfl ((acceptanceError_finalize s).trans (if_pos hin))
  case anyPhase =>
    subst hv
    obtain ⟨hwf, ha⟩ := acceptanceError_anyPhase hi s
    exact step_write_encode_accepts rest hb hwf ha

end

namespace Sys2Proof.Machine

/-! What a step does to a recorded error (R247). -/

/-- R247, R73: the host write clears a recorded error, as a STATUS write with bit 2 set does. -/
def clearsError (w : Reg × Word) : Bool := w.1 == .status && w.2.getLsbD 2

/-- R247: the next step clears a recorded error. -/
def State.nextClearsError (s : State) : Bool :=
  s.nextIsReset || s.completing == some .clear || s.nextWrite.any clearsError

theorem nextWrite_any_clearsError_iff (s : State) :
    s.nextWrite.any clearsError = true ↔
      ∃ v : Word, s.nextWrite = some (.status, v) ∧ v.getLsbD 2 = true := by
  simp [Option.any_eq_true, clearsError]

theorem nextClearsError_iff (s : State) :
    s.nextClearsError = true ↔
      s.nextIsReset = true ∨ s.completing = some .clear ∨
        ∃ v : Word, s.nextWrite = some (.status, v) ∧ v.getLsbD 2 = true := by
  rw [State.nextClearsError, Bool.or_eq_true, Bool.or_eq_true, beq_iff_eq, nextWrite_any_clearsError_iff,
    or_assoc]

/-- R221, R223, R247: of the completions only CLEAR's touches ERR and ERRCODE, and it zeroes both. -/
theorem exec_error {i : Instr} {s t : State} (h : exec i s = .next t) :
    t.err = (!(i == .clear) && s.err) ∧ t.errcode = if i = .clear then 0 else s.errcode := by
  rcases exec_cases h with
    ⟨rfl, rfl⟩ | ⟨rfl, rfl⟩ | ⟨n, rfl, rfl⟩ | ⟨rfl, rfl⟩ | ⟨rfl, rfl⟩ | ⟨rfl, rfl⟩ | ⟨rfl, rfl⟩ <;>
      exact ⟨rfl, rfl⟩

/-- R220, R241: while an error is recorded, a CMD write changes neither ERR nor ERRCODE. -/
theorem acceptCommand_keeps_error (v : Word) {s : State} (he : s.err = true) :
    (acceptCommand v s).err = true ∧ (acceptCommand v s).errcode = s.errcode := by
  rcases acceptCommand_cases v s with ⟨e, ha⟩ | ⟨i, -, -, -, ha⟩ <;> simp [ha, he]

/-- R241, R247: while an error is recorded, of the host writes only a STATUS write with bit 2 set changes ERR or
ERRCODE. -/
theorem writeReg_error (r : Reg) (v : Word) {s : State} (he : s.err = true) :
    (writeReg r v s).err = !clearsError (r, v) ∧
      (writeReg r v s).errcode = if clearsError (r, v) then 0 else s.errcode := by
  cases r with
  | cmd => exact acceptCommand_keeps_error v he
  | status => cases hv : v.getLsbD 2 <;> simp [writeReg, clearsError, hv, he]
  | _ => simp [writeReg, clearsError, he]

/-- R241, R247: a step from a recorded error either clears ERR and ERRCODE or leaves both alone. -/
theorem step_error {s t : State} (h : step s = .next t) (he : s.err = true) :
    t.err = !s.nextClearsError ∧ t.errcode = if s.nextClearsError then 0 else s.errcode := by
  rcases step_cases h with
    ⟨-, hc, hr, hw, hx⟩ | ⟨-, hc, hr, hw, rfl⟩ | ⟨hc, hr, hw, off, width, o, rest, -, -, rfl⟩ |
      ⟨hc, hr, r, v, hw, rfl⟩ | ⟨hc, hr, hw, rfl⟩
  case inl => simpa [State.nextClearsError, hc, hr, hw, he] using exec_error hx
  case inr.inr.inr.inl =>
    have hclear : s.nextClearsError = clearsError (r, v) := by simp [State.nextClearsError, hc, hr, hw]
    rw [hclear]
    exact writeReg_error r v he
  all_goals simp [State.nextClearsError, hc, hr, hw, he]

/-- R39, R250: with nothing recorded the interrupt line is low. -/
theorem irq_eq_false {s : State} (hd : s.done = false) (he : s.err = false) : irq s = false := by
  simp [irq, hd, he]

end Sys2Proof.Machine

section
/-! The obligation about what clears a recorded error. -/

open Sys2Proof Sys2Proof.Machine

/-- Settles O28: `step_error` says what every step makes of a recorded error and its code. -/
theorem onlyTheseClearAnError : Obligations.OnlyTheseClearAnError := by
  intro s t h he
  obtain ⟨herr, hcode⟩ := step_error h he
  rw [← nextClearsError_iff]
  refine ⟨by simp [herr], fun hclr => ⟨?code, fun hdone => irq_eq_false hdone hclr⟩⟩
  have hnext : s.nextClearsError = true := by simpa [herr] using hclr
  simpa [hnext] using hcode

end

namespace Sys2Proof.Machine

/-! What reset leaves (R46, R280). -/

/-- R280: the step of a reset, whatever the state. -/
theorem step_reset (s : State) (rest : List Event) :
    step { s with agenda := .reset :: rest } = .next (resetCore { s with agenda := rest }) := rfl

/-- R42: STATUS reads 0 after reset. -/
theorem statusWord_resetCore (s : State) : statusWord (resetCore s) = 0 := by
  have hreset : statusWord State.reset = 0 := by decide
  exact hreset

/-- R43: CTRL reads 0 after reset, since IE is 0. -/
theorem ctrlWord_resetCore (s : State) : ctrlWord (resetCore s) = 0 := rfl

/-- R39, R250: the interrupt line is low after reset. -/
theorem irq_resetCore (s : State) : irq (resetCore s) = false := irq_eq_false rfl rfl

end Sys2Proof.Machine

section
/-! The obligation about reset. -/

open Sys2Proof Sys2Proof.Machine

/-- Settles O49: only a completion or a reset ends a pending command (O31), and what a reset leaves is
`resetCore`, whose fields are R46's values. -/
theorem resetGivesTheResetValues : Obligations.ResetGivesTheResetValues := by
  refine ⟨fun s t h hb hbt hc => ?abandons, fun s rest => ?resets⟩
  case abandons =>
    obtain ⟨hends, -⟩ := oneCommandAtATime s t h
    exact ((hends hb).1 hbt).resolve_left (not_not_intro hc)
  case resets =>
    exact ⟨_, step_reset s rest, rfl, rfl, rfl, rfl, rfl, rfl, rfl, rfl, rfl, rfl, rfl, rfl, rfl, rfl,
      statusWord_resetCore _, ctrlWord_resetCore _, rfl, irq_resetCore _, resetCore_agenda _⟩

end


section
/-! The obligation that decoding and encoding agree. -/

open Sys2Proof Sys2Proof.Machine

/-- Settles O3: one direction is `decode_encode`, the other `decode_eq_cmd`. -/
theorem decodeAndEncodeAgree : Obligations.DecodeAndEncodeAgree :=
  ⟨fun _ hi => decode_encode hi, fun _ _ h => decode_eq_cmd h⟩

end

section
/-! SUPPORT. What each step does to the error record and to the data registers. -/

namespace Sys2Proof.Machine

/-! The error record. -/

/-- R241, R247: a host write leaves the error record alone, clears it, or, at CMD, DIN or STATE, records an error. -/
theorem writeReg_error_cases (r : Reg) (v : Word) (s : State) :
    ((writeReg r v s).err = s.err ∧ (writeReg r v s).errcode = s.errcode) ∨
    ((writeReg r v s).err = false ∧ (writeReg r v s).errcode = 0) ∨
    (r.protectedWhileBusy = true ∧ ∃ e, writeReg r v s = raiseError e s) := by
  cases r with
  | cmd =>
    rcases acceptCommand_cases v s with he | ⟨i, -, -, -, he⟩
    · exact .inr (.inr ⟨rfl, he⟩)
    · exact .inl (by simp [writeReg, he])
  | status =>
    by_cases hv : v.getLsbD 2 = true
    · exact .inr (.inl ⟨(writeStatus_err v s).trans (if_pos hv), (writeStatus_errcode v s).trans (if_pos hv)⟩)
    · exact .inl ⟨(writeStatus_err v s).trans (if_neg hv), (writeStatus_errcode v s).trans (if_neg hv)⟩
  | din w =>
    cases hb : s.busy with
    | true => exact .inr (.inr ⟨rfl, _, writeReg_dropped v hb rfl⟩)
    | false => simp [writeReg, hb]
  | state b w =>
    cases hb : s.busy with
    | true => exact .inr (.inr ⟨rfl, _, writeReg_dropped v hb rfl⟩)
    | false => simp [writeReg, hb]
  | _ => exact .inl ⟨rfl, rfl⟩

/-- R241, R244, R247: a step leaves the error record alone, clears it, or is a write to CMD, DIN or STATE that
records an error. -/
theorem step_error_cases {s t : State} (h : step s = .next t) :
    (t.err = s.err ∧ t.errcode = s.errcode) ∨ (t.err = false ∧ t.errcode = 0) ∨
    (∃ r v e, s.nextWrite = some (r, v) ∧ r.protectedWhileBusy = true ∧ t.err = true ∧
      t.errcode = if s.err then s.errcode else ErrorCode.code e) := by
  rcases step_cases h with
    ⟨-, -, -, -, hx⟩ | ⟨-, -, -, -, rfl⟩ | ⟨-, -, -, off, width, o, rest, -, -, rfl⟩ | ⟨-, -, r, v, hw, rfl⟩ |
      ⟨-, -, -, rfl⟩
  · obtain ⟨he, hcode⟩ := exec_error hx
    by_cases hi : s.pending = .clear
    · exact .inr (.inl (by simp [he, hcode, hi]))
    · exact .inl (by simp [he, hcode, hi])
  · exact .inl ⟨rfl, rfl⟩
  · exact .inl (by simp)
  · rcases writeReg_error_cases r v { s with agenda := s.agenda.tail } with hk | hc | ⟨hr, e, he⟩
    · exact .inl hk
    · exact .inr (.inl hc)
    · exact .inr (.inr ⟨r, v, e, hw, hr, by rw [he]; rfl, by rw [he]; rfl⟩)
  · exact .inr (.inl ⟨rfl, rfl⟩)

/-- R76: CMD, DIN and STATE are the registers whose writes BUSY = 1 drops. -/
theorem protectedWhileBusy_iff (r : Reg) :
    r.protectedWhileBusy = true ↔ r = .cmd ∨ (∃ w, r = .din w) ∨ ∃ b w, r = .state b w := by
  cases r <;> simp [Reg.protectedWhileBusy]

/-! The data registers. -/

/-- R220: acceptance changes no data register and not IE. -/
theorem acceptCommand_data (v : Word) (s : State) :
    (acceptCommand v s).S = s.S ∧ (acceptCommand v s).din = s.din ∧ (acceptCommand v s).tag = s.tag ∧
      (acceptCommand v s).rndout = s.rndout ∧ (acceptCommand v s).adbits = s.adbits ∧
      (acceptCommand v s).ie = s.ie := by
  rcases acceptCommand_cases v s with ⟨e, he⟩ | ⟨i, -, -, -, he⟩ <;> simp [he]

@[simp] theorem writeReg_tag (r : Reg) (v : Word) (s : State) : (writeReg r v s).tag = s.tag := by
  cases r <;> simp [writeReg, acceptCommand_data]

@[simp] theorem writeReg_rndout (r : Reg) (v : Word) (s : State) : (writeReg r v s).rndout = s.rndout := by
  cases r <;> simp [writeReg, acceptCommand_data]

@[simp] theorem writeReg_adbits (r : Reg) (v : Word) (s : State) : (writeReg r v s).adbits = s.adbits := by
  cases r <;> simp [writeReg, acceptCommand_data]

/-- R73, R76: only a STATE write with BUSY = 0 changes S. -/
theorem writeReg_S {r : Reg} {s : State} (v : Word) (h : ¬ (s.busy = false ∧ ∃ b w, r = .state b w)) :
    (writeReg r v s).S = s.S := by
  cases r with
  | state b w => simp [writeReg, show s.busy = true by simpa using h]
  | _ => simp [writeReg, acceptCommand_data]

/-- R73, R76: only a DIN write with BUSY = 0 changes DIN. -/
theorem writeReg_din {r : Reg} {s : State} (v : Word) (h : ¬ (s.busy = false ∧ ∃ w, r = .din w)) :
    (writeReg r v s).din = s.din := by
  cases r with
  | din w => simp [writeReg, show s.busy = true by simpa using h]
  | _ => simp [writeReg, acceptCommand_data]

/-- R43, R73: only a CTRL write changes IE. -/
theorem writeReg_ie {r : Reg} (v : Word) (s : State) (h : r ≠ .ctrl) : (writeReg r v s).ie = s.ie := by
  cases r with
  | ctrl => exact absurd rfl h
  | _ => simp [writeReg, acceptCommand_data]

/-- R25 to R27: only completions and reset change TAG, RNDOUT and ADBITS. -/
theorem step_keeps_results {s t : State} (h : step s = .next t) (hc : s.completing = none)
    (hr : s.nextIsReset = false) : t.tag = s.tag ∧ t.rndout = s.rndout ∧ t.adbits = s.adbits := by
  rcases hw : s.nextWrite with _ | ⟨r, v⟩
  · have ha := step_passes h hc hr hw
    exact ⟨(congrArg State.tag ha :), (congrArg State.rndout ha :), (congrArg State.adbits ha :)⟩
  · simp [step_writes h hw]

/-- R22, R24, R35: outside completions and reset, S, DIN and IE change by a host write to them alone, S and DIN only
with BUSY = 0. -/
theorem step_changes_by_write {s t : State} (h : step s = .next t) (hc : s.completing = none)
    (hr : s.nextIsReset = false) :
    (t.S ≠ s.S → s.busy = false ∧ ∃ b w v, s.nextWrite = some (.state b w, v)) ∧
    (t.din ≠ s.din → s.busy = false ∧ ∃ w v, s.nextWrite = some (.din w, v)) ∧
    (t.ie ≠ s.ie → ∃ v, s.nextWrite = some (.ctrl, v)) := by
  rcases hw : s.nextWrite with _ | ⟨r, v⟩
  · have ha := step_passes h hc hr hw
    exact ⟨fun hne => absurd (congrArg State.S ha :) hne, fun hne => absurd (congrArg State.din ha :) hne,
      fun hne => absurd (congrArg State.ie ha :) hne⟩
  · obtain rfl := step_writes h hw
    refine ⟨fun hne => ?_, fun hne => ?_, fun hne => ?_⟩
    · obtain ⟨hb, b, w, rfl⟩ := Decidable.not_not.1 (mt (writeReg_S v) hne)
      exact ⟨hb, b, w, v, rfl⟩
    · obtain ⟨hb, w, rfl⟩ := Decidable.not_not.1 (mt (writeReg_din v) hne)
      exact ⟨hb, w, v, rfl⟩
    · obtain rfl := Decidable.not_not.1 (mt (writeReg_ie v _) hne)
      exact ⟨v, rfl⟩

end Sys2Proof.Machine
end

section
/-! The obligations about what raises an error, and about which steps change the data registers. -/

open Sys2Proof Sys2Proof.Machine

/-- Settles O27: a step that does not clear a recorded error keeps its code, by `step_error`. -/
theorem firstErrorIsKept : Obligations.FirstErrorIsKept := by
  intro s t h he het
  obtain ⟨herr, hcode⟩ := step_error h he
  have hnext : s.nextClearsError = false := by simpa [herr] using het
  simpa [hnext] using hcode

/-- Settles O29: of the three things a step can do to the error record, only the last sets ERR. -/
theorem onlyTheseWritesRaiseAnError : Obligations.OnlyTheseWritesRaiseAnError := by
  intro s t h he het
  rcases step_error_cases h with ⟨hk, -⟩ | ⟨hc, -⟩ | ⟨r, v, e, hw, hr, -⟩
  · simp [hk, he] at het
  · simp [hc] at het
  · exact ⟨r, v, hw, (protectedWhileBusy_iff r).1 hr⟩

/-- Settles O36: completions by the fields each command writes, every other step by `step_changes_by_write` and
`step_keeps_results`. -/
theorem registersChangeOnlyAsTheirRulesSay : Obligations.RegistersChangeOnlyAsTheirRulesSay := by
  intro s t h hr
  cases hc : s.completing with
  | some i =>
    rcases exec_cases (step_completes h hc) with
      ⟨rfl, rfl⟩ | ⟨rfl, rfl⟩ | ⟨n, rfl, rfl⟩ | ⟨rfl, rfl⟩ | ⟨rfl, rfl⟩ | ⟨rfl, rfl⟩ | ⟨rfl, rfl⟩ <;> simp
  | none =>
    obtain ⟨hS, hdin, hie⟩ := step_changes_by_write h hc hr
    obtain ⟨htag, hrnd, had⟩ := step_keeps_results h hc hr
    simp only [htag, hrnd, had]
    simpa using ⟨hS, hdin, hie⟩

end


section
/-! SUPPORT. The invariant of reachable states in three parts: the error record, the pending command, and the
construction's registers. Each step keeps each part. -/

namespace Sys2Proof.Machine

/-- The error record's part of the invariant: code 0 while no error is recorded, and 1 to 4 otherwise. -/
structure State.ErrorInv (s : State) : Prop where
  noError : s.err = false → s.errcode = 0
  someError : s.err = true → 1 ≤ s.errcode.toNat ∧ s.errcode.toNat ≤ 4

/-- The pending command's part of the invariant: not completed, legal, and as acceptance found it. -/
structure State.CommandInv (s : State) : Prop where
  notDone : s.busy = true → s.done = false
  legal : s.busy = true → s.pending.WellFormed
  accepted : s.busy = true → acceptanceError s.pending s = none

/-- The part of the invariant about PHASE, TAIL, TAG_VALID, TAG and ADBITS. -/
structure State.ConstructionInv (s : State) : Prop where
  tailAbsorbing : s.tail = true → s.phase = .absorbing
  tagValidFinalized : s.tagValid = true ↔ s.phase = .finalized
  tagZero : s.tagValid = false → s.tag = zeroBlock
  bitsZero : s.phase = .uninit ∨ s.phase = .initialized → s.adbits = 0
  bitsWholeBytes : s.adbits.toNat % 8 = 0
  bitsTail : s.phase = .absorbing → (s.tail = true ↔ s.adbits.toNat % 256 ≠ 0)

/-- The invariant is its three parts. -/
theorem inv_iff (s : State) : s.Inv ↔ s.ErrorInv ∧ s.CommandInv ∧ s.ConstructionInv :=
  ⟨fun ⟨h1, h2, h3, h4, h5, h6, h7, h8, h9, h10, h11⟩ =>
      ⟨⟨h1, h2⟩, ⟨h3, h4, h5⟩, ⟨h6, h7, h8, h9, h10, h11⟩⟩,
    fun ⟨⟨h1, h2⟩, ⟨h3, h4, h5⟩, ⟨h6, h7, h8, h9, h10, h11⟩⟩ =>
      ⟨h1, h2, h3, h4, h5, h6, h7, h8, h9, h10, h11⟩⟩

/-- R221: the command that the next step completes is the pending one, and the step is its completion, after its turn
has left the agenda. -/
theorem step_of_completing {s : State} {i : Instr} (hc : s.completing = some i) :
    s.busy = true ∧ s.pending = i ∧ step s = exec i { s with agenda := s.agenda.tail } := by
  unfold State.completing at hc
  split at hc
  case isFalse => cases hc
  case isTrue hb =>
    split at hc
    case h_1 hag =>
      cases hc
      have hs : { s with agenda := s.agenda.tail } = s := by rw [hag, List.tail_nil, ← hag]
      exact ⟨hb, rfl, by rw [hs]; simp [step, hag, quietTurn, engineTurn, hb]⟩
    case h_2 rest hag =>
      cases hc
      exact ⟨hb, rfl, by simp [step, hag, turn, engineTurn, hb]⟩
    all_goals cases hc

/-! The error record. -/

/-- R242, R253: the codes the core records are 1 to 4. -/
theorem errorCode_range (e : ErrorCode) : 1 ≤ e.code.toNat ∧ e.code.toNat ≤ 4 := by
  cases e <;> decide

/-- R241, R242, R247: a step keeps the error record's part. -/
theorem step_keeps_errorInv {s t : State} (hinv : s.ErrorInv) (h : step s = .next t) : t.ErrorInv := by
  rcases step_error_cases h with ⟨he, hcode⟩ | ⟨he, hcode⟩ | ⟨r, v, e, -, -, he, hcode⟩
  · exact ⟨fun ht => hcode.trans (hinv.noError (he ▸ ht)), fun ht => hcode ▸ hinv.someError (he ▸ ht)⟩
  · exact ⟨fun _ => hcode, fun ht => absurd (he.symm.trans ht) (by decide)⟩
  · refine ⟨fun ht => absurd (he.symm.trans ht) (by decide), fun _ => ?_⟩
    rw [hcode]
    split
    · next hs => exact hinv.someError hs
    · exact errorCode_range e

/-! The pending command. -/

/-- A state with no command pending meets the pending command's part. -/
theorem commandInv_of_idle {s : State} (hb : s.busy = false) : s.CommandInv :=
  ⟨by simp [hb], by simp [hb], by simp [hb]⟩

/-- R32, R76, R220: a step keeps the pending command's part: acceptance establishes it, and nothing that acceptance
looked at changes before the completion. -/
theorem step_keeps_commandInv {s t : State} (hinv : s.CommandInv) (h : step s = .next t) : t.CommandInv := by
  cases hc : s.completing with
  | some i =>
    obtain ⟨u, rfl⟩ := exec_finishes (step_completes h hc)
    exact commandInv_of_idle rfl
  | none =>
    cases hr : s.nextIsReset with
    | true => rw [step_resets h hr]; exact commandInv_of_idle rfl
    | false =>
      obtain ⟨hphase, htail, -⟩ := step_keeps_construction h hc hr
      obtain ⟨-, -, hbits⟩ := step_keeps_results h hc hr
      have hacc : acceptanceError t.pending t = acceptanceError t.pending s :=
        acceptanceError_congr hphase htail hbits
      rcases step_begins_or_keeps h hc hr with ⟨-, -, hdone, v, -, hd, ha⟩ | ⟨hbusy, hpend, hdone⟩
      · exact ⟨fun _ => hdone, fun _ => (decode_eq_cmd hd).1, fun _ => hacc.trans ha⟩
      · rw [hpend] at hacc
        refine ⟨fun hb => ?_, fun hb => ?_, fun hb => ?_⟩ <;> rw [hbusy] at hb
        · simp [hdone, hinv.notDone hb]
        · rw [hpend]; exact hinv.legal hb
        · rw [hpend]; exact hacc.trans (hinv.accepted hb)

/-! The construction. -/

/-- The construction's part depends only on the five registers it names. -/
theorem State.ConstructionInv.congr {s t : State} (hs : s.ConstructionInv) (hphase : t.phase = s.phase)
    (htail : t.tail = s.tail) (hvalid : t.tagValid = s.tagValid) (htag : t.tag = s.tag)
    (hbits : t.adbits = s.adbits) : t.ConstructionInv := by
  obtain ⟨h1, h2, h3, h4, h5, h6⟩ := hs
  constructor <;> simpa only [hphase, htail, hvalid, htag, hbits]

/-- R280: the construction's part holds after reset. -/
theorem constructionInv_resetCore (s : State) : (resetCore s).ConstructionInv := by
  constructor <;> simp

/-- R94, R220: in a state of the invariant the completed command is a legal one that acceptance let pass. -/
theorem completing_accepted {s : State} {i : Instr} (hinv : s.CommandInv) (hc : s.completing = some i) :
    i.WellFormed ∧ acceptanceError i s = none := by
  obtain ⟨hb, rfl, -⟩ := step_of_completing hc
  exact ⟨hinv.legal hb, hinv.accepted hb⟩

/-- R176, R178: the bits counted by an ABSORB that acceptance let pass do not wrap. -/
theorem absorb_bits {a : BitVec 64} {n : BitVec 6} (h : a.toNat + 8 * n.toNat < 2 ^ 64) :
    (a + BitVec.ofNat 64 (8 * n.toNat)).toNat = a.toNat + 8 * n.toNat := by
  rw [BitVec.toNat_add, BitVec.toNat_ofNat, Nat.add_mod_mod, Nat.mod_eq_of_lt h]

/-- R29, R176: in an open construction with TAIL = 0 whole chunks have been counted. -/
theorem bits_wholeChunks {s : State} (hinv : s.ConstructionInv) (hopen : s.phase.isOpen = true)
    (htail : s.tail = false) : s.adbits.toNat % 256 = 0 := by
  rcases (isOpen_iff _).1 hopen with hp | hp
  · rw [hinv.bitsZero (.inr hp)]; rfl
  · have := hinv.bitsTail hp
    simpa [htail] using this

/-- R28, R29, R176: a completion that acceptance let pass keeps the construction's part. -/
theorem exec_keeps_constructionInv {i : Instr} {s t : State} (hinv : s.ConstructionInv) (hwf : i.WellFormed)
    (hacc : acceptanceError i s = none) (h : exec i s = .next t) : t.ConstructionInv := by
  rcases exec_cases h with
    ⟨rfl, rfl⟩ | ⟨rfl, rfl⟩ | ⟨n, rfl, rfl⟩ | ⟨rfl, rfl⟩ | ⟨rfl, rfl⟩ | ⟨rfl, rfl⟩ | ⟨rfl, rfl⟩
  case inr.inl => constructor <;> simp
  case inr.inr.inl =>
    obtain ⟨hopen, htail, hfits⟩ := acceptanceError_absorb hacc
    obtain ⟨hlo, hhi⟩ := (absorb_wellFormed_iff n).1 hwf
    have hchunks := bits_wholeChunks hinv hopen htail
    have hbits := absorb_bits hfits
    have hopenValid : s.tagValid = false := by
      have := hinv.tagValidFinalized
      rcases (isOpen_iff _).1 hopen with hp | hp <;> simpa [hp] using this
    refine ⟨fun _ => rfl, by simp [hopenValid], hinv.tagZero, by simp, ?_, fun _ => ?_⟩
    · simp only [finish_adbits, hbits]; omega
    · simp only [finish_adbits, finish_tail, hbits, decide_eq_true_eq]; omega
  case inr.inr.inr.inl =>
    exact ⟨by simp, by simp, by simp, by simp, hinv.bitsWholeBytes, by simp⟩
  case inr.inr.inr.inr.inr.inr => constructor <;> simp
  all_goals exact hinv.congr rfl rfl rfl rfl rfl

/-- R28, R29, R31, R176: a step keeps the construction's part. -/
theorem step_keeps_constructionInv {s t : State} (hcmd : s.CommandInv) (hinv : s.ConstructionInv)
    (h : step s = .next t) : t.ConstructionInv := by
  cases hc : s.completing with
  | some i =>
    obtain ⟨hwf, hacc⟩ := completing_accepted hcmd hc
    exact exec_keeps_constructionInv (s := { s with agenda := s.agenda.tail })
      (hinv.congr rfl rfl rfl rfl rfl) hwf ((acceptanceError_congr rfl rfl rfl).trans hacc) (step_completes h hc)
  | none =>
    cases hr : s.nextIsReset with
    | true => rw [step_resets h hr]; exact constructionInv_resetCore _
    | false =>
      obtain ⟨hphase, htail, hvalid⟩ := step_keeps_construction h hc hr
      obtain ⟨htag, -, hbits⟩ := step_keeps_results h hc hr
      exact hinv.congr hphase htail hvalid htag hbits

end Sys2Proof.Machine
end

section
/-! The obligations about the invariant. -/

open Sys2Proof Sys2Proof.Machine

/-- Settles O54: no error, no command, and the construction's registers at their reset values. -/
theorem resetMeetsTheInvariant : Obligations.ResetMeetsTheInvariant :=
  (inv_iff _).2 ⟨⟨fun _ => rfl, by simp⟩, commandInv_of_idle rfl, constructionInv_resetCore State.reset⟩

/-- Settles O55: the three parts of the invariant, each kept by its own lemma. -/
theorem stepKeepsTheInvariant : Obligations.StepKeepsTheInvariant := by
  intro s t hinv h
  obtain ⟨herr, hcmd, hcon⟩ := (inv_iff s).1 hinv
  exact (inv_iff t).2
    ⟨step_keeps_errorInv herr h, step_keeps_commandInv hcmd h, step_keeps_constructionInv hcmd hcon h⟩

/-- Settles O37: acceptance has checked that the sum fits. -/
theorem lengthCounterNeverWraps : Obligations.LengthCounterNeverWraps := by
  intro s t n hinv hc h
  obtain ⟨-, hcmd, -⟩ := (inv_iff s).1 hinv
  obtain ⟨-, -, hfits⟩ := acceptanceError_absorb (completing_accepted hcmd hc).2
  have ht : exec (.absorb n) { s with agenda := s.agenda.tail } = .next t := step_completes h hc
  cases ht
  exact absorb_bits hfits

end

section
/-! SUPPORT. The correspondence between the commands of a construction and the bytes it has absorbed (R183). -/

namespace Sys2Proof.Machine

/-- The correspondence depends only on the five registers it names. -/
theorem Absorbed.congr {b : List Byte} {s t : State} (hs : Absorbed b s) (hS : t.S = s.S)
    (hbits : t.adbits = s.adbits) (hphase : t.phase = s.phase) (htail : t.tail = s.tail)
    (hraw : t.raw = s.raw) : Absorbed b t := by
  obtain ⟨h1, h2, h3, h4, h5⟩ := hs
  constructor <;> simpa only [hS, hbits, hphase, htail, hraw]

/-- R173, R182: INIT leaves a construction that has absorbed nothing. -/
theorem absorbed_nil_of_execInit {s t : State} (h : exec .init s = .next t) : Absorbed [] t := by
  cases h
  exact ⟨rfl, rfl, rfl, rfl, rfl⟩

/-- R178, R183: an ABSORB n that acceptance let pass appends the first n bytes of DIN. -/
theorem absorbed_append_of_execAbsorb {b : List Byte} {n : BitVec 6} {s t : State} (hs : Absorbed b s)
    (hwf : (Instr.absorb n).WellFormed) (hacc : acceptanceError (.absorb n) s = none)
    (h : exec (.absorb n) s = .next t) : Absorbed (b ++ s.din.toList.take n.toNat) t := by
  obtain ⟨-, htail, hfits⟩ := acceptanceError_absorb hacc
  obtain ⟨hlo, hhi⟩ := (absorb_wellFormed_iff n).1 hwf
  have hlen : (s.din.toList.take n.toNat).length = n.toNat := by simp [hhi]
  have hwhole : b.length % 32 = 0 := by simpa [htail] using hs.tail
  have hne : b ++ s.din.toList.take n.toNat ≠ [] := by
    intro hnil
    have := congrArg List.length hnil
    simp [hlen] at this
    omega
  cases h
  constructor
  case blocks =>
    rw [absorbAll_append b _ hwhole (by omega) (by omega), chunkOf_take, ← hs.blocks]
    rfl
  case bits =>
    rw [List.length_append, hlen, Nat.mul_add, ← hs.bits]
    exact absorb_bits hfits
  case phase => rw [if_neg hne]; rfl
  case tail =>
    rw [List.length_append, hlen]
    exact decide_eq_decide.2 (by omega)
  case raw => exact hs.raw

/-- R180, R182: FINALIZE writes the checksum of what the construction has absorbed. -/
theorem tag_of_execFinalize {b : List Byte} {s t : State} (hs : Absorbed b s) (h : exec .finalize s = .next t) :
    t.tag = checksum b := by
  have hlen : s.adbits = BitVec.ofNat 64 (8 * b.length) := by
    rw [← hs.bits, BitVec.ofNat_toNat, BitVec.setWidth_eq]
  cases h
  simp only [finish_tag, checksum, hs.blocks, hlen]

/-- R183: a step that neither completes, resets nor writes a STATE word that BUSY = 0 admits leaves the correspondence
alone. -/
theorem step_keeps_absorbed {b : List Byte} {s t : State} (hs : Absorbed b s) (h : step s = .next t)
    (hc : s.completing = none) (hr : s.nextIsReset = false) (hw : s.nextChangesBlocks = false) :
    Absorbed b t := by
  obtain ⟨hphase, htail, -⟩ := step_keeps_construction h hc hr
  obtain ⟨-, -, hbits⟩ := step_keeps_results h hc hr
  rcases hnext : s.nextWrite with _ | ⟨r, v⟩
  · have ha := step_passes h hc hr hnext
    exact hs.congr (congrArg State.S ha :) hbits hphase htail (congrArg State.raw ha :)
  · have hr : ¬ (s.busy = false ∧ ∃ b w, r = .state b w) := by
      rintro ⟨hb, c, w, rfl⟩
      simp [State.nextChangesBlocks, hb, hnext] at hw
    obtain rfl := step_writes h hnext
    exact hs.congr (writeReg_S v hr) hbits hphase htail ((writeReg_raw r v _).trans (if_neg hr))

/-- R183: along a watched run the invariant and the correspondence hold. -/
theorem watch_absorbed {k : Nat} {s u : State} {g g' : Option (List Byte)}
    (hstep : Obligations.StepKeepsTheConstruction) (hinv : s.Inv) (hg : ∀ b, g = some b → Absorbed b s)
    (h : watch k g s = some (g', u)) : u.Inv ∧ ∀ b, g' = some b → Absorbed b u := by
  induction k generalizing g s with
  | zero => cases h; exact ⟨hinv, hg⟩
  | succ k ih =>
    unfold watch at h
    split at h
    · next t ht => exact ih (stepKeepsTheInvariant s t hinv ht) (hstep s t g hinv hg ht) h
    · cases h

end Sys2Proof.Machine
end

section
/-! The obligations about the construction and the tag it ends in. -/

open Sys2Proof Sys2Proof.Machine

/-- Settles O57: a completion by its command, and every other step that keeps the bytes by `step_keeps_absorbed`. -/
theorem stepKeepsTheConstruction : Obligations.StepKeepsTheConstruction := by
  intro s t g hinv hg h b hb
  unfold absorbedAfter at hb
  cases hc : s.completing with
  | none =>
    simp only [hc] at hb
    split at hb
    · cases hb
    · next hno =>
      obtain ⟨hr, hw⟩ : s.nextIsReset = false ∧ s.nextChangesBlocks = false := by simpa using hno
      exact step_keeps_absorbed (hg b hb) h hc hr hw
  | some i =>
    have hx := step_completes h hc
    simp only [hc] at hb
    cases i with
    | nop => cases hx; exact (hg b hb).congr rfl rfl rfl rfl rfl
    | init => cases hb; exact absorbed_nil_of_execInit hx
    | absorb n =>
      obtain ⟨c, rfl, rfl⟩ := Option.map_eq_some_iff.1 hb
      obtain ⟨-, hcmd, -⟩ := (inv_iff s).1 hinv
      obtain ⟨hwf, hacc⟩ := completing_accepted hcmd hc
      exact absorbed_append_of_execAbsorb (s := { s with agenda := s.agenda.tail })
        ((hg c rfl).congr rfl rfl rfl rfl rfl) hwf ((acceptanceError_congr rfl rfl rfl).trans hacc) hx
    | round => cases hx; exact (hg b hb).congr rfl rfl rfl rfl rfl
    | _ => cases hb

/-- Settles O58: the run keeps the correspondence, so FINALIZE's completion writes the checksum. -/
theorem tagIsTheChecksumOfTheAbsorbedBytes : Obligations.TagIsTheChecksumOfTheAbsorbedBytes := by
  intro k s u b hinv hwatch hc
  obtain ⟨-, habs⟩ := watch_absorbed stepKeepsTheConstruction hinv (by simp) hwatch
  have hb : Absorbed b { u with agenda := u.agenda.tail } := (habs b rfl).congr rfl rfl rfl rfl rfl
  obtain ⟨-, -, hstep⟩ := step_of_completing hc
  have hbits := hb.bits
  have hfits := u.adbits.isLt
  exact ⟨_, hstep, tag_of_execFinalize hb rfl, rfl, hb.raw, by omega⟩

end


section
/-! SUPPORT. The field GF(2^8) of R124: multiplication is additive in its first argument and commutes with `xtime`,
so factors may be exchanged, and inverses are unique. -/

namespace Sys2Proof.Machine

/-! `xtime` and its powers are additive. -/

theorem xor_left_comm (a b c : Byte) : a ^^^ (b ^^^ c) = b ^^^ (a ^^^ c) := by
  ac_rfl

/-- Exchanging the two inner terms of a fourfold exclusive-or. -/
theorem xor_xor_xor_comm (a b c d : Byte) : a ^^^ b ^^^ (c ^^^ d) = a ^^^ c ^^^ (b ^^^ d) := by
  ac_rfl

theorem xtime_xor (a b : Byte) : xtime (a ^^^ b) = xtime a ^^^ xtime b := by
  have hred : (if (a ^^^ b).getLsbD 7 then (0x1b : Byte) else 0x00) =
      (if a.getLsbD 7 then 0x1b else 0x00) ^^^ (if b.getLsbD 7 then 0x1b else 0x00) := by
    rw [BitVec.getLsbD_xor]
    cases a.getLsbD 7 <;> cases b.getLsbD 7 <;> rfl
  rw [xtime, hred, BitVec.shiftLeft_xor_distrib, xor_xor_xor_comm]
  rfl

theorem xtimePow_xor (k : Nat) (a b : Byte) : xtimePow k (a ^^^ b) = xtimePow k a ^^^ xtimePow k b := by
  induction k with
  | zero => rfl
  | succ k ih => simp only [xtimePow, ih, xtime_xor]

/-! Multiplication. -/

/-- R124: `2 · a`. -/
theorem gmul_two (a : Byte) : gmul a 2 = xtime a := by
  simp [gmul, List.range_succ, xtimePow]

/-- R124: `3 · a`. -/
theorem gmul_three (a : Byte) : gmul a 3 = times3 a := by
  simp [gmul, List.range_succ, xtimePow, times3, BitVec.xor_comm]

theorem gmul_zero (a : Byte) : gmul a 0 = 0 := by
  simp [gmul, List.range_succ]

theorem one_gmul (a : Byte) : gmul 1 a = a := by
  revert a; decide +kernel

/-- R124: an additive map that commutes with `xtime` commutes with multiplication. -/
theorem map_gmul {f : Byte → Byte} (hadd : ∀ x y, f (x ^^^ y) = f x ^^^ f y) (hx : ∀ x, f (xtime x) = xtime (f x))
    (a b : Byte) : f (gmul a b) = gmul (f a) b := by
  have hpow : ∀ k, f (xtimePow k a) = xtimePow k (f a) := by
    intro k
    induction k with
    | zero => rfl
    | succ k ih => simp only [xtimePow, hx, ih]
  have hzero : f 0 = 0 := by
    have := hadd 0 0
    rwa [BitVec.xor_self, BitVec.xor_self] at this
  unfold gmul
  conv_rhs => rw [← hzero]
  refine (List.foldl_hom f fun acc k => ?_).symm
  split
  · rw [hadd, hpow]
  · rfl

/-- R124: multiplication distributes over exclusive-or in its first argument. -/
theorem xor_gmul (a b c : Byte) : gmul (a ^^^ b) c = gmul a c ^^^ gmul b c := by
  unfold gmul
  have hfold : ∀ (l : List Nat) (x y : Byte),
      l.foldl (fun acc k => if c.getLsbD k then acc ^^^ xtimePow k (a ^^^ b) else acc) (x ^^^ y) =
        l.foldl (fun acc k => if c.getLsbD k then acc ^^^ xtimePow k a else acc) x ^^^
          l.foldl (fun acc k => if c.getLsbD k then acc ^^^ xtimePow k b else acc) y := by
    intro l
    induction l with
    | nil => intro x y; rfl
    | cons k l ih =>
      intro x y
      simp only [List.foldl_cons]
      split
      · rw [xtimePow_xor, xor_xor_xor_comm, ih]
      · rw [ih]
  exact hfold _ 0 0

theorem xtime_gmul (a b : Byte) : gmul (xtime a) b = xtime (gmul a b) :=
  (map_gmul xtime_xor (fun _ => rfl) a b).symm

/-- R124: factors may be exchanged, since multiplying by c commutes with multiplying by b. -/
theorem gmul_right_comm (a b c : Byte) : gmul (gmul a b) c = gmul (gmul a c) b :=
  map_gmul (f := fun x => gmul x c) (fun x y => xor_gmul x y c) (fun x => xtime_gmul x c) a b

theorem gmul_comm (a b : Byte) : gmul a b = gmul b a := by
  have := gmul_right_comm 1 a b
  rwa [one_gmul, one_gmul] at this

/-- A byte has at most one inverse. -/
theorem gmul_inverse_unique {a b c : Byte} (hb : gmul a b = 1) (hc : gmul a c = 1) : b = c := by
  calc b = gmul (gmul a c) b := by rw [hc, one_gmul]
    _ = gmul (gmul a b) c := gmul_right_comm a c b
    _ = c := by rw [hb, one_gmul]

/-! The substitution table. -/

/-- R123: b is the inverse of a, 0 being that of 0. -/
def IsInverse (a b : Byte) : Prop := (a = 0 ∧ b = 0) ∨ (a ≠ 0 ∧ gmul a b = 1)

/-- R123 read backwards: the byte that the affine map sends to s. -/
def affineInverse (s : Byte) : Byte := s.rotateLeft 1 ^^^ s.rotateLeft 3 ^^^ s.rotateLeft 6 ^^^ 0x05

theorem sboxAffine_affineInverse (s : Byte) : sboxAffine (affineInverse s) = s := by
  revert s; decide

/-- R122, R123: undoing the affine map on the table's entry gives the inverse. -/
theorem isInverse_affineInverse_sbox (a : Byte) : IsInverse a (affineInverse (sbox a)) := by
  unfold IsInverse
  revert a; decide +kernel

theorem IsInverse.unique {a b c : Byte} (hb : IsInverse a b) (hc : IsInverse a c) : b = c := by
  rcases hb with ⟨ha, rfl⟩ | ⟨ha, hb⟩ <;> rcases hc with ⟨ha', rfl⟩ | ⟨ha', hc⟩
  · rfl
  · exact absurd ha ha'
  · exact absurd ha' ha
  · exact gmul_inverse_unique hb hc

theorem IsInverse.symm {a b : Byte} (h : IsInverse a b) : IsInverse b a := by
  rcases h with ⟨rfl, rfl⟩ | ⟨ha, h⟩
  · exact .inl ⟨rfl, rfl⟩
  · refine .inr ⟨?_, by rwa [gmul_comm]⟩
    rintro rfl
    rw [gmul_zero] at h
    exact absurd h (by decide)

/-- R123: equal entries of the table have the same inverse, and so stand at the same byte. -/
theorem sbox_bijective : Function.Bijective sbox := by
  refine Finite.injective_iff_bijective.1 fun a b hab => ?_
  have ha := isInverse_affineInverse_sbox a
  rw [hab] at ha
  exact ha.symm.unique (isInverse_affineInverse_sbox b).symm

end Sys2Proof.Machine
end

section
/-! SUPPORT. The round byte by byte, and why each of its layers is a bijection: SubBytes because the table is one,
ShiftRows and MixColumns because four of either is the identity, and the key addition because two are. -/

namespace Sys2Proof.Machine

@[simp] theorem getElem_subBytes (B : Block) (j : Nat) (h : j < 16) : (subBytes B)[j] = sbox B[j] := by
  simp [subBytes]

theorem getElem_shiftRows (B : Block) (j : Nat) (h : j < 16) :
    (shiftRows B)[j] = B[j % 4 + 4 * ((j / 4 + j % 4) % 4)]'(by omega) := by
  simp [shiftRows]

/-- R122, R125: the byte that ShiftRows brings into row r of column c, substituted. -/
theorem getElem_shiftRows_subBytes (S : Block) (c r : Nat) (hc : c < 4) (hr : r < 4) :
    (shiftRows (subBytes S))[4 * c + r] = sbox (S[r + 4 * ((c + r) % 4)]'(by omega)) := by
  have hidx : (4 * c + r) % 4 + 4 * (((4 * c + r) / 4 + (4 * c + r) % 4) % 4) = r + 4 * ((c + r) % 4) := by omega
  simp only [getElem_shiftRows, getElem_subBytes, hidx]

/-- R126: a mixed byte by its column and its row. -/
theorem getElem_mixColumns (B : Block) (c r : Nat) (hc : c < 4) (hr : r < 4) :
    (mixColumns B)[4 * c + r] = mixRow r B[4 * c] B[4 * c + 1] B[4 * c + 2] B[4 * c + 3] := by
  have hdiv : (4 * c + r) / 4 = c := by omega
  have hmod : (4 * c + r) % 4 = r := by omega
  simp [mixColumns, hdiv, hmod]

/-- R120, R127: a byte of the round. -/
theorem getElem_aesRound (S K : Block) (j : Nat) (h : j < 16) :
    (aesRound S K)[j] = (mixColumns (shiftRows (subBytes S)))[j] ^^^ K[j] := by
  simp only [aesRound, getElem_xorBlock]

/-- A function that is the identity when applied four times is a bijection. -/
theorem bijective_of_four_times {α : Type} {f : α → α} (h : ∀ x, f (f (f (f x))) = x) : Function.Bijective f :=
  Function.bijective_iff_has_inverse.2 ⟨fun x => f (f (f x)), h, h⟩

theorem subBytes_bijective : Function.Bijective subBytes := by
  obtain ⟨g, hleft, hright⟩ := Function.bijective_iff_has_inverse.1 sbox_bijective
  refine Function.bijective_iff_has_inverse.2 ⟨fun B => Vector.ofFn fun j => g B[j], fun B => ?_, fun B => ?_⟩
  · ext1 j hj; simp [hleft _]
  · ext1 j hj; simp [hright _]

/-- R125: row r turns by r places, so four times by 4r. -/
theorem shiftRows_four_times (B : Block) : shiftRows (shiftRows (shiftRows (shiftRows B))) = B := by
  ext1 j hj
  simp only [getElem_shiftRows]
  congr 1
  omega

/-- R126: a mixed byte from the column's four bytes, its own row first. -/
def mixByte (a b c d : Byte) : Byte := xtime a ^^^ times3 b ^^^ c ^^^ d

/-- R126: each row of the matrix is the row above it turned by one place. -/
theorem mixRow_eq_mixByte (a0 a1 a2 a3 : Byte) :
    mixRow 0 a0 a1 a2 a3 = mixByte a0 a1 a2 a3 ∧ mixRow 1 a0 a1 a2 a3 = mixByte a1 a2 a3 a0 ∧
      mixRow 2 a0 a1 a2 a3 = mixByte a2 a3 a0 a1 ∧ mixRow 3 a0 a1 a2 a3 = mixByte a3 a0 a1 a2 := by
  refine ⟨rfl, ?_, ?_, ?_⟩ <;> simp only [mixRow, mixByte] <;> ac_rfl

/-- R126: two mixes of a column add to each byte four times itself and four times the byte two rows on: the matrix's
polynomial is 3x³ + x² + x + 2, whose square is 4x² + 5 modulo x⁴ + 1. -/
theorem mixByte_twice (a b c d : Byte) :
    mixByte (mixByte a b c d) (mixByte b c d a) (mixByte c d a b) (mixByte d a b c) =
      xtime (xtime a) ^^^ a ^^^ xtime (xtime c) := by
  simp [mixByte, times3, xtime_xor, BitVec.xor_assoc, BitVec.xor_comm, xor_left_comm]

/-- R126: two mixes of a column, row by row. -/
theorem mixRow_twice (a0 a1 a2 a3 : Byte) :
    let m := fun r => mixRow r a0 a1 a2 a3
    mixRow 0 (m 0) (m 1) (m 2) (m 3) = xtime (xtime a0) ^^^ a0 ^^^ xtime (xtime a2) ∧
    mixRow 1 (m 0) (m 1) (m 2) (m 3) = xtime (xtime a1) ^^^ a1 ^^^ xtime (xtime a3) ∧
    mixRow 2 (m 0) (m 1) (m 2) (m 3) = xtime (xtime a2) ^^^ a2 ^^^ xtime (xtime a0) ∧
    mixRow 3 (m 0) (m 1) (m 2) (m 3) = xtime (xtime a3) ^^^ a3 ^^^ xtime (xtime a1) := by
  simp only [mixRow_eq_mixByte]
  exact ⟨mixByte_twice a0 a1 a2 a3, mixByte_twice a1 a2 a3 a0, mixByte_twice a2 a3 a0 a1, mixByte_twice a3 a0 a1 a2⟩

theorem getElem_mixColumns_twice (B : Block) (c r : Nat) (hc : c < 4) (hr : r < 4) :
    (mixColumns (mixColumns B))[4 * c + r] =
      xtime (xtime B[4 * c + r]) ^^^ B[4 * c + r] ^^^
        xtime (xtime (B[4 * c + (r + 2) % 4]'(by omega))) := by
  have h0 : (mixColumns B)[4 * c] = mixRow 0 B[4 * c] B[4 * c + 1] B[4 * c + 2] B[4 * c + 3] :=
    getElem_mixColumns B c 0 hc (by omega)
  rw [getElem_mixColumns _ c r hc hr, h0, getElem_mixColumns B c 1 hc (by omega),
    getElem_mixColumns B c 2 hc (by omega), getElem_mixColumns B c 3 hc (by omega)]
  obtain ⟨row0, row1, row2, row3⟩ := mixRow_twice B[4 * c] B[4 * c + 1] B[4 * c + 2] B[4 * c + 3]
  obtain rfl | rfl | rfl | rfl : r = 0 ∨ r = 1 ∨ r = 2 ∨ r = 3 := by omega
  · exact row0
  · exact row1
  · exact row2
  · exact row3

/-- R126: (4x² + 5)² = 1 modulo x⁴ + 1, for one byte and the byte two rows on. -/
theorem quadruple_twice (a b : Byte) :
    xtime (xtime (xtime (xtime a) ^^^ a ^^^ xtime (xtime b))) ^^^ (xtime (xtime a) ^^^ a ^^^ xtime (xtime b)) ^^^
      xtime (xtime (xtime (xtime b) ^^^ b ^^^ xtime (xtime a))) = a := by
  simp [xtime_xor, BitVec.xor_assoc, BitVec.xor_comm, xor_left_comm]

/-- R126: MixColumns four times is the identity. -/
theorem mixColumns_four_times (B : Block) : mixColumns (mixColumns (mixColumns (mixColumns B))) = B := by
  ext1 j hj
  obtain ⟨c, r, hc, hr, rfl⟩ : ∃ c r, c < 4 ∧ r < 4 ∧ j = 4 * c + r :=
    ⟨j / 4, j % 4, by omega, by omega, by omega⟩
  have hback : ((r + 2) % 4 + 2) % 4 = r := by omega
  rw [getElem_mixColumns_twice _ c r hc hr, getElem_mixColumns_twice B c r hc hr,
    getElem_mixColumns_twice B c ((r + 2) % 4) hc (by omega)]
  simp only [hback]
  exact quadruple_twice _ _

/-- R127: adding the same block twice undoes it. -/
theorem xorBlock_bijective (A : Block) : Function.Bijective (xorBlock A) :=
  Function.Involutive.bijective fun B => by
    rw [← xorBlock_assoc, xorBlock_self, xorBlock_comm, xorBlock_zero]

end Sys2Proof.Machine
end

section
/-! The obligations about the round. -/

open Sys2Proof Sys2Proof.Machine

/-- Settles O17: row r of column c of the mixed, shifted and substituted block, and the key's byte. -/
theorem aesRoundByteByByte : Obligations.AesRoundByteByByte := by
  intro S K c h a0 a1 a2 a3
  have h0 : (shiftRows (subBytes S))[4 * c] = a0 := by
    have := getElem_shiftRows_subBytes S c 0 h (by omega)
    simpa [Nat.mod_eq_of_lt h] using this
  have hrow : ∀ (r : Nat) (hr : r < 4),
      (aesRound S K)[4 * c + r] = mixRow r a0 a1 a2 a3 ^^^ K[4 * c + r] := by
    intro r hr
    rw [getElem_aesRound, getElem_mixColumns _ c r h hr]
    rw [h0, getElem_shiftRows_subBytes S c 1 h (by omega), getElem_shiftRows_subBytes S c 2 h (by omega),
      getElem_shiftRows_subBytes S c 3 h (by omega)]
  simp only [gmul_two, gmul_three]
  exact ⟨hrow 0 (by omega), hrow 1 (by omega), hrow 2 (by omega), hrow 3 (by omega)⟩

/-- Settles O18: the table's entry with the affine map undone is the inverse, and inverses are unique. -/
theorem sboxIsInverseThenAffine : Obligations.SboxIsInverseThenAffine := by
  refine ⟨fun a => ⟨_, isInverse_affineInverse_sbox a⟩, fun a b (hb : IsInverse a b) => ?_⟩
  rw [hb.unique (isInverse_affineInverse_sbox a)]
  exact (sboxAffine_affineInverse (sbox a)).symm

/-- Settles O19: the layers are bijections, and the round composes them. -/
theorem aesRoundIsAPermutation : Obligations.AesRoundIsAPermutation := by
  have hshift := bijective_of_four_times shiftRows_four_times
  have hmix := bijective_of_four_times mixColumns_four_times
  have hround : ∀ S K, aesRound S K = xorBlock (mixColumns (shiftRows (subBytes S))) K := fun S K => by
    simp only [aesRound]
  refine ⟨subBytes_bijective, hshift, hmix, fun K => ?_, fun S => ?_⟩
  · simp only [hround, xorBlock_comm _ K]
    exact (xorBlock_bijective K).comp (hmix.comp (hshift.comp subBytes_bijective))
  · simp only [hround]
    exact xorBlock_bijective _

end


section
/-! SUPPORT. An update block by block, the injected length block, and the tag byte by byte. -/

namespace Sys2Proof.Machine

/-- R151: the block that an update injects into the key of block i; none but M0 and M1 is injected. -/
def injectedBlock (M0 M1 : Block) (i : Nat) : Block :=
  if i = 0 then M0 else if i = 4 then M1 else zeroBlock

theorem getElem_injectedBlock (M0 M1 : Block) (i j : Nat) (h : j < 16) :
    (injectedBlock M0 M1 i)[j] = if i = 0 then M0[j] else if i = 4 then M1[j] else 0 := by
  unfold injectedBlock
  split
  · rfl
  · split
    · rfl
    · simp [zeroBlock]

/-- R23, R150: each new block is the round of the block before it under the old block and what is injected there. -/
theorem getElem_stateUpdate (S : Blocks) (M0 M1 : Block) (i : Nat) (h : i < 8) :
    (stateUpdate S M0 M1)[i] = aesRound (S[(i + 7) % 8]'(by omega)) (xorBlock S[i] (injectedBlock M0 M1 i)) := by
  unfold stateUpdate
  obtain rfl | rfl | rfl | rfl | rfl | rfl | rfl | rfl :
    i = 0 ∨ i = 1 ∨ i = 2 ∨ i = 3 ∨ i = 4 ∨ i = 5 ∨ i = 6 ∨ i = 7 := by omega
  all_goals simp [injectedBlock]

/-- R151: what is injected is xored into the new block. -/
theorem getElem_stateUpdate_eq_xor (S : Blocks) (M0 M1 : Block) (i : Nat) (h : i < 8) :
    (stateUpdate S M0 M1)[i] = xorBlock (stateUpdate S zeroBlock zeroBlock)[i] (injectedBlock M0 M1 i) := by
  have hzero : injectedBlock zeroBlock zeroBlock i = zeroBlock := by simp [injectedBlock]
  rw [getElem_stateUpdate, getElem_stateUpdate, hzero, xorBlock_zero, aesRound_xor_key]

/-- R13: a repeated update is a fold. -/
theorem foldl_range_stateUpdate (n : Nat) (M0 M1 : Block) (S : Blocks) :
    (List.range n).foldl (fun X _ => stateUpdate X M0 M1) S = repeatUpdate n M0 M1 S := by
  induction n generalizing S with
  | zero => rfl
  | succ n ih => rw [List.range_succ, List.foldl_append, ih, repeatUpdate_add]; rfl

/-- R175, R177: the block that FINALIZE injects, byte by byte. -/
theorem finalBlock_eq (S : Blocks) (a : BitVec 64) :
    finalBlock S a = Vector.ofFn fun j : Fin 16 =>
      S[2][j.val] ^^^ (if j.val < 8 then BitVec.ofNat 8 (a.toNat / 2 ^ (8 * j.val)) else 0) := by
  have hbyte : ∀ j, a.extractLsb' (8 * j) 8 = BitVec.ofNat 8 (a.toNat / 2 ^ (8 * j)) := fun j => by
    rw [BitVec.extractLsb', Nat.shiftRight_eq_div_pow]
  ext1 j hj
  simp [finalBlock, lengthBlock, hbyte]

/-- R174: the two halves of the padded chunk. -/
theorem firstBlock_padChunk (d : Chunk) (n : Nat) :
    firstBlock (padChunk d n) = Vector.ofFn fun j : Fin 16 => if j.val < n then d[j.val] else 0 := by
  ext1 j hj; simp

theorem secondBlock_padChunk (d : Chunk) (n : Nat) :
    secondBlock (padChunk d n) = Vector.ofFn fun j : Fin 16 => if 16 + j.val < n then d[16 + j.val] else 0 := by
  ext1 j hj; simp

/-- R178: only the first n bytes of a chunk stay after padding. -/
theorem padChunk_congr {d e : Chunk} {n : Nat} (h : ∀ (j : Nat) (_ : j < 32), j < n → d[j] = e[j]) :
    padChunk d n = padChunk e n := by
  ext1 j hj
  rw [getElem_padChunk, getElem_padChunk]
  split
  · next hn => exact h j hj hn
  · rfl

/-- R61, R221: a completion keeps IE and every data register with a word that its command does not write. -/
theorem exec_keeps_unwritten {i : Instr} {s t : State} (h : exec i s = .next t) :
    t.ie = s.ie ∧ (writesReg i .adbitsLo = false → t.adbits = s.adbits) ∧
      (writesReg i .adbitsHi = false → t.adbits = s.adbits) ∧
      (∀ w, writesReg i (.din w) = false → t.din = s.din) ∧
      (∀ w, writesReg i (.tag w) = false → t.tag = s.tag) ∧
      (∀ w, writesReg i (.rndout w) = false → t.rndout = s.rndout) ∧
      (∀ b w, writesReg i (.state b w) = false → t.S = s.S) := by
  rcases exec_cases h with
    ⟨rfl, rfl⟩ | ⟨rfl, rfl⟩ | ⟨n, rfl, rfl⟩ | ⟨rfl, rfl⟩ | ⟨rfl, rfl⟩ | ⟨rfl, rfl⟩ | ⟨rfl, rfl⟩ <;> simp [writesReg]

end Sys2Proof.Machine
end

section
/-! The obligations about the update, the length block and the tag. -/

open Sys2Proof Sys2Proof.Machine

/-- Settles O20: the key of each block, byte by byte. -/
theorem updateBlockByBlock : Obligations.UpdateBlockByBlock := by
  intro S M0 M1 i h
  have hkey : xorBlock S[i] (injectedBlock M0 M1 i) = Vector.ofFn fun j : Fin 16 =>
      S[i][j.val] ^^^ (if i = 0 then M0[j.val] else if i = 4 then M1[j.val] else 0) := by
    ext1 j hj
    rw [getElem_xorBlock, getElem_injectedBlock, Vector.getElem_ofFn]
  rw [getElem_stateUpdate, hkey]

/-- Settles O21: an update is the update with zero blocks, and what is injected xored in. -/
theorem injectionReachesOneBlockEach : Obligations.InjectionReachesOneBlockEach := by
  intro S M0 M1
  refine ⟨fun i h h0 h4 => ?_, fun j h => ⟨?_, ?_⟩⟩ <;>
    rw [getElem_stateUpdate_eq_xor]
  · have hnone : injectedBlock M0 M1 i = zeroBlock := by simp [injectedBlock, h0, h4]
    rw [hnone, xorBlock_zero]
  · exact getElem_xorBlock _ M0 j h
  · exact getElem_xorBlock _ M1 j h

/-- Settles O22: seven updates with the block of `finalBlock_eq`. -/
theorem finalizeInjectsTheLengthBlock : Obligations.FinalizeInjectsTheLengthBlock := by
  intro S adbits
  rw [finalizeBlocks, finalBlock_eq]
  exact (foldl_range_stateUpdate 7 _ _ S).symm

/-- Settles O23: FINALIZE writes `tagOf` of the final blocks. -/
theorem tagIsTheXorOfSevenBlocks : Obligations.TagIsTheXorOfSevenBlocks := by
  intro s
  refine ⟨_, rfl, fun j h => ?_⟩
  simp [tagOf]

end

section
/-! The obligations about each command's completion. -/

open Sys2Proof Sys2Proof.Machine

/-- Settles O7: NOP's completion is `finish`. -/
theorem nopCompletes : Obligations.NopCompletes := fun _ => rfl

/-- Settles O8: the two views of DIN are its halves. -/
theorem roundCompletes : Obligations.RoundCompletes := fun _ => rfl

/-- Settles O9: the two views of DIN are its halves. -/
theorem updateCompletes : Obligations.UpdateCompletes := fun _ => rfl

/-- Settles O10: the ten updates of INIT as a fold over the layout's bytes. -/
theorem initCompletes : Obligations.InitCompletes := by
  intro s
  rw [foldl_range_stateUpdate]
  rfl

/-- Settles O11: the padded chunk's halves, and a sum that does not wrap. -/
theorem absorbCompletes : Obligations.AbsorbCompletes := by
  intro s n hlo hhi hfits
  refine ⟨_, rfl, absorb_bits (by omega), ?_⟩
  rw [absorbChunk, firstBlock_padChunk, secondBlock_padChunk]
  rfl

/-- Settles O12: FINALIZE's completion. -/
theorem finalizeCompletes : Obligations.FinalizeCompletes := fun _ => rfl

/-- Settles O13: CLEAR leaves every field of STATUS but DONE at 0. -/
theorem clearCompletes : Obligations.ClearCompletes := by
  intro s
  refine ⟨_, rfl, ?_, rfl⟩
  have hdone : statusWord { State.reset with done := true } = 0x00000002 := by decide
  exact hdone

/-- Settles O14: every completion ends in `finish`, and only CLEAR touches the error record. -/
theorem completionsRaiseNoError : Obligations.CompletionsRaiseNoError := by
  intro i s
  obtain ⟨t, h⟩ := exec_next i s
  obtain ⟨herr, hcode⟩ := exec_error h
  have hdone : t.busy = false ∧ t.done = true := by
    obtain ⟨u, rfl⟩ := exec_finishes h
    exact ⟨rfl, rfl⟩
  refine ⟨t, h, hdone.1, hdone.2, fun hi => ?_, fun hi => ?_⟩
  · simp [herr, hcode, hi]
  · simp [herr, hcode, hi]

/-- Settles O15: each register reads from a field that `exec_keeps_unwritten` keeps. -/
theorem completionsLeaveOtherWords : Obligations.CompletionsLeaveOtherWords := by
  intro i s t r h hst hw
  obtain ⟨hie, hlo, hhi, hdin, htag, hrnd, hS⟩ := exec_keeps_unwritten h
  cases r with
  | status => exact absurd rfl hst
  | ctrl => simp only [readReg, ctrlWord, hie]
  | adbitsLo => simp only [readReg, hlo hw]
  | adbitsHi => simp only [readReg, hhi hw]
  | din w => simp only [readReg, hdin w hw]
  | tag w => simp only [readReg, htag w hw]
  | rndout w => simp only [readReg, hrnd w hw]
  | state b w => simp only [readReg, hS b w hw]
  | id => rfl
  | cmd => rfl
  | reserved => rfl

/-- Settles O16: the chunk is padded before it is absorbed. -/
theorem absorbIgnoresStaleBytes : Obligations.AbsorbIgnoresStaleBytes := by
  intro s n d h
  refine ⟨_, rfl, ?_⟩
  simp only [exec, execAbsorb, padChunk_congr h]
  rfl

end


section
/-! SUPPORT. The register window by its offsets: which register lies at each, what a read of it returns, and what a
write to it does, the words of the array registers byte by byte. -/

namespace Sys2Proof.Machine

/-! The map. -/

/-- R74: the aligned offsets of the window that hold no named register. -/
def ReservedOffset (off : Nat) : Prop :=
  off = 0x018 ∨ off = 0x01C ∨ (0x060 ≤ off ∧ off ≤ 0x0FC) ∨ (0x180 ≤ off ∧ off ≤ 0xFFC)

/-- R61, R74: an aligned offset of the window is reserved, or is that of the register mapped to it. -/
theorem regAt_cases {off : Nat} (hal : off % 4 = 0) (hlt : off < 0x1000) :
    (ReservedOffset off ∧ regAt off = .reserved) ∨
      (¬ ReservedOffset off ∧ (regAt off).offset = some off) := by
  unfold regAt ReservedOffset
  repeat' split
  all_goals
    simp only [Reg.offset, Option.some.injEq, reduceCtorEq, and_false, and_true, false_or, or_false, Fin.val_ofNat]
    omega

/-- R77: the offsets that return a free value while BUSY = 1. -/
theorem openWhileBusy_regAt {off : Nat} (hlt : off < 0x1000) :
    (regAt off).openWhileBusy = true ↔
      off = 0x010 ∨ off = 0x014 ∨ (0x040 ≤ off ∧ off < 0x060) ∨ (0x100 ≤ off ∧ off < 0x180) := by
  unfold regAt
  repeat' split
  all_goals
    simp only [Reg.openWhileBusy, true_iff, false_iff, Bool.false_eq_true]
    omega

/-- R73, R74: the registers that ignore a write. -/
def Reg.ignoresWrites : Reg → Bool
  | .id => true
  | .adbitsLo => true
  | .adbitsHi => true
  | .tag _ => true
  | .rndout _ => true
  | .reserved => true
  | _ => false

theorem writeReg_ignored {r : Reg} (h : r.ignoresWrites = true) (v : Word) (s : State) : writeReg r v s = s := by
  cases r with
  | ctrl => cases h
  | cmd => cases h
  | status => cases h
  | din w => cases h
  | state b w => cases h
  | _ => rfl

/-- R73, R74: the offsets at which a write is ignored. -/
theorem ignoresWrites_regAt {off : Nat} (hal : off % 4 = 0) :
    (regAt off).ignoresWrites = true ↔
      off = 0x000 ∨ off = 0x010 ∨ off = 0x014 ∨ (0x040 ≤ off ∧ off < 0x060) ∨
        off = 0x018 ∨ off = 0x01C ∨ (0x060 ≤ off ∧ off < 0x100) ∨ 0x180 ≤ off := by
  unfold regAt
  repeat' split
  all_goals
    simp only [Reg.ignoresWrites, true_iff, false_iff, Bool.false_eq_true]
    omega

/-! Host addresses (R14). -/

/-- R9, R84: the base of the window is a multiple of its size. -/
theorem base_mod_windowSize : Config.base % 0x1000 = 0 := Nat.mul_mod_right _ _

/-- R14: an address at or above the base lies at its distance from it. -/
theorem offsetOf_eq {addr : Nat} (h : Config.base ≤ addr) :
    Config.offsetOf addr = ((addr - Config.base : Nat) : Int) := by
  unfold Config.offsetOf
  omega

/-- R69, R70: an address is refused unless it is 4-aligned in the window, for a 32-bit access. -/
theorem offsetOf_refused {addr width : Nat}
    (h : ¬ (width = 4 ∧ addr % 4 = 0 ∧ Config.base ≤ addr ∧ addr < Config.base + 0x1000)) :
    ∃ r, checkAccess (Config.offsetOf addr) width = .error r := by
  have hbase := base_mod_windowSize
  refine checkAccess_refuses ?_
  unfold Config.offsetOf
  omega

/-! Words by their bytes. -/

/-- R62: the word whose bytes are four bytes of the array is the array's word. -/
theorem eq_getWord {n : Nat} (B : Vector Byte n) (w : Nat) (h : 4 * w + 3 < n) {x : Word}
    (hx : ∀ (k : Nat) (_ : k < 4), x.extractLsb' (8 * k) 8 = B[4 * w + k]) : x = getWord B w h :=
  word_ext fun k hk => (hx k hk).trans (wordByte_getWord B w k h hk).symm

/-- R73: the array after a word write, byte by byte. -/
theorem setWord_eq {n : Nat} (B : Vector Byte n) (w : Nat) (v : Word) :
    setWord B w v = Vector.ofFn fun j : Fin n =>
      if 4 * w ≤ j.val ∧ j.val < 4 * w + 4 then v.extractLsb' (8 * (j.val - 4 * w)) 8 else B[j.val] := by
  ext1 j hj
  rw [getElem_setWord, Vector.getElem_ofFn]
  by_cases hw : j / 4 = w
  · have hin : 4 * w ≤ j ∧ j < 4 * w + 4 := by omega
    have hmod : j % 4 = j - 4 * w := by omega
    simp only [hw, hin, hmod, if_true, and_self, wordByte]
  · have hout : ¬ (4 * w ≤ j ∧ j < 4 * w + 4) := by omega
    simp only [hw, hout, if_false]

/-- R73: the blocks after a STATE word write, byte by byte. -/
theorem set_setWord_eq (S : Blocks) (b w : Nat) (hb : b < 8) (v : Word) :
    S.set b (setWord S[b] w v) = Vector.ofFn fun c : Fin 8 => Vector.ofFn fun j : Fin 16 =>
      if c.val = b ∧ 4 * w ≤ j.val ∧ j.val < 4 * w + 4 then v.extractLsb' (8 * (j.val - 4 * w)) 8
      else S[c.val][j.val] := by
  ext1 c hc
  rw [Vector.getElem_ofFn, Vector.getElem_set]
  by_cases hcb : b = c
  · subst hcb
    simp only [if_true, true_and]
    exact setWord_eq _ _ _
  · have hne : ¬ c = b := fun h => hcb h.symm
    simp only [hcb, hne, false_and, if_false]
    ext1 j hj
    rw [Vector.getElem_ofFn]

/-! Reads. -/

/-- R72: what a register reads does not depend on the inputs to come. -/
theorem readReg_agenda (r : Reg) (s : State) (rest : List Event) :
    readReg r { s with agenda := rest } = readReg r s := by
  cases r <;> rfl

/-- R62 to R65, R72: with BUSY = 0 a read returns the register's word. -/
theorem step_read_idle (s : State) (rest : List Event) {r : Reg} {off : Nat} (hb : s.busy = false)
    (h : r.offset = some off) :
    step { s with agenda := .read off 4 :: rest } =
      .next { s with agenda := rest, replies := (off, readReg r s) :: s.replies } := by
  obtain ⟨hal, hlt⟩ := offset_admitted h
  rw [step_read s rest off hal hlt, hostRead, readReg_agenda, regAt_of_offset h]
  simp [hb]

/-- R77: a read while BUSY = 1. -/
theorem step_read_busy (s : State) (rest : List Event) {off : Nat} (hb : s.busy = true) (hal : off % 4 = 0)
    (hlt : off < windowSize) :
    step { s with agenda := .read off 4 :: rest } =
      if (regAt off).openWhileBusy then
        .next { s with
          agenda := rest, replies := (off, Config.freeRead s.draws) :: s.replies, draws := s.draws + 1 }
      else .next { s with agenda := rest, replies := (off, readReg (regAt off) s) :: s.replies } := by
  rw [step_read s rest off hal hlt, hostRead, readReg_agenda]
  cases (regAt off).openWhileBusy <;> simp [hb]

/-! Writes with BUSY = 0. -/

/-- R73: with BUSY = 0 a DIN write changes its word of DIN. -/
theorem step_write_din_idle (s : State) (rest : List Event) (v : Word) (w : Fin 8) (hb : s.busy = false) :
    step { s with agenda := .write ((0x020 + 4 * w.val : Nat) : Int) 4 v :: rest } =
      .next { s with agenda := rest, din := setWord s.din w.val v } := by
  rw [step_write_offset s rest v (r := .din w) rfl]
  simp [writeReg, writeDin, hb]

/-- R73: with BUSY = 0 a STATE write changes its word of S, and sets RAW. -/
theorem step_write_state_idle (s : State) (rest : List Event) (v : Word) (b : Fin 8) (w : Fin 4)
    (hb : s.busy = false) :
    step { s with agenda := .write ((0x100 + 16 * b.val + 4 * w.val : Nat) : Int) 4 v :: rest } =
      .next { s with agenda := rest, S := s.S.set b.val (setWord s.S[b] w.val v), raw := true } := by
  rw [step_write_offset s rest v (r := .state b w) rfl]
  simp [writeReg, writeState, hb]

/-! STATUS and the interrupt line. -/

theorem getElem_flagBit (b : Bool) (k : Nat) (h : k < 32) : (flagBit b)[k] = (b && decide (k = 0)) := by
  cases b
  · simp [flagBit]
  · cases k <;> simp [flagBit, BitVec.getElem_one]

/-- R32, R76: while a command is pending, a step that does not complete it or reset keeps RAW. -/
theorem step_keeps_raw {s t : State} (h : step s = .next t) (hb : s.busy = true) (hc : s.completing = none)
    (hr : s.nextIsReset = false) : t.raw = s.raw := by
  rcases hw : s.nextWrite with _ | ⟨r, v⟩
  · exact (congrArg State.raw (step_passes h hc hr hw) :)
  · rw [step_writes h hw, writeReg_raw]
    simp [hb]

end Sys2Proof.Machine
end

section
/-! The obligations about the register window. -/

open Sys2Proof Sys2Proof.Machine

/-- Settles O39: an address in the window lies at its distance from the base, and the base is a multiple of the
window's size. -/
theorem windowLiesAtItsBase : Obligations.WindowLiesAtItsBase := by
  refine ⟨base_mod_windowSize, fun s rest addr width v => ⟨fun ⟨hw, hal, hlo, hhi⟩ => ?_, fun hout => ?_⟩⟩
  · subst hw
    have hbase := base_mod_windowSize
    have hal' : (addr - Config.base) % 4 = 0 := by omega
    have hlt : addr - Config.base < windowSize := by unfold windowSize; omega
    rw [readAt, writeAt, offsetOf_eq hlo]
    exact ⟨step_read s rest _ hal' hlt, step_write s rest _ v hal' hlt⟩
  · obtain ⟨r, hr⟩ := offsetOf_refused hout
    exact ⟨⟨r, step_read_refused s rest hr⟩, ⟨r, step_write_refused s rest v hr⟩⟩

/-- Settles O40: `regAt_of_offset` one way, `regAt_cases` the other. -/
theorem registerMapIsExact : Obligations.RegisterMapIsExact := by
  refine ⟨fun r off h => ?_, fun off hal hlt => ⟨fun hres => ?_, regAt_reserved⟩, fun off r hal hlt hr hne => ?_⟩
  · obtain ⟨hal, hlt⟩ := offset_admitted h
    exact ⟨hal, hlt, regAt_of_offset h⟩
  · rcases regAt_cases hal hlt with ⟨h, -⟩ | ⟨-, h⟩
    · exact h
    · rw [hres] at h; cases h
  · subst hr
    rcases regAt_cases hal hlt with ⟨-, h⟩ | ⟨-, h⟩
    · exact absurd h hne
    · exact h

/-- Settles O41: `step_read_idle` at each register's offset, the words of the arrays by their bytes. -/
theorem idleReadsReturnTheRegisters : Obligations.IdleReadsReturnTheRegisters := by
  intro s rest hb replyIs
  have hread : ∀ (r : Reg) (off : Nat), r.offset = some off → replyIs off (readReg r s) :=
    fun r off h => step_read_idle s rest hb h
  refine ⟨hread .id _ rfl, hread .ctrl _ rfl, hread .cmd _ rfl, hread .status _ rfl, ?_, ?_, ?_, ?_, ?_, ?_⟩
  · rintro x rfl; exact hread .adbitsLo _ rfl
  · rintro x rfl; exact hread .adbitsHi _ rfl
  · intro w h x hx
    rw [eq_getWord s.din w (by omega) hx]; exact hread (.din ⟨w, h⟩) _ rfl
  · intro w h x hx
    rw [eq_getWord s.tag w (by omega) hx]; exact hread (.tag ⟨w, h⟩) _ rfl
  · intro w h x hx
    rw [eq_getWord s.rndout w (by omega) hx]; exact hread (.rndout ⟨w, h⟩) _ rfl
  · intro b h w hw x hx
    rw [eq_getWord s.S[b] w (by omega) hx]; exact hread (.state ⟨b, h⟩ ⟨w, hw⟩) _ rfl

/-- Settles O42: the fields that hold by what a step may do to them, and the free reads by `openWhileBusy_regAt`. -/
theorem busyReadsOfResultsAreFree : Obligations.BusyReadsOfResultsAreFree := by
  refine ⟨fun s t hb hc hr h => ?_, fun s rest off hb hal hlt => ?_⟩
  · obtain ⟨hphase, htail, hvalid⟩ := step_keeps_construction h hc hr
    rcases step_begins_or_keeps h hc hr with ⟨hidle, -⟩ | ⟨hbusy, -⟩
    · exact absurd (hb.symm.trans hidle) (by decide)
    · exact ⟨hbusy.trans hb, hphase, htail, step_keeps_raw h hb hc hr, hvalid⟩
  · rw [step_read_busy s rest hb hal hlt]
    simp only [openWhileBusy_regAt hlt]

/-- Settles O44: each write by its register, the arrays byte by byte. -/
theorem idleWritesReachTheirRegister : Obligations.IdleWritesReachTheirRegister := by
  intro s rest v hb write
  refine ⟨step_write_ctrl s rest v, step_write_status s rest v, fun w h => ?_, fun b h w hw => ?_,
    fun off hal hlt hoff => ?_⟩
  · rw [← setWord_eq]
    exact step_write_din_idle s rest v ⟨w, h⟩ hb
  · rw [← set_setWord_eq s.S b w h v]
    exact step_write_state_idle s rest v ⟨b, h⟩ ⟨w, hw⟩ hb
  · exact (step_write s rest off v hal hlt).trans (congrArg _ (writeReg_ignored ((ignoresWrites_regAt hal).2 hoff) v _))

/-- Settles O46: each bit of the word comes from one field alone. -/
theorem statusWordBitByBit : Obligations.StatusWordBitByBit := by
  intro s
  have hphase : (statusWord s).extractLsb' 4 2 = s.phase.code := by
    ext k hk
    obtain rfl | rfl : k = 0 ∨ k = 1 := by omega
    all_goals simp [statusWord, getElem_flagBit]
  have hcode : (statusWord s).extractLsb' 8 3 = s.errcode := by
    ext k hk
    obtain rfl | rfl | rfl : k = 0 ∨ k = 1 ∨ k = 2 := by omega
    all_goals simp [statusWord, getElem_flagBit]
  have hzero : (statusWord s).extractLsb' 12 20 = 0 := by
    have hmask : (statusWord s &&& 0xFFFFF008).extractLsb' 12 20 = (statusWord s).extractLsb' 12 20 :=
      BitVec.extractLsb'_and.trans BitVec.and_allOnes
    rw [← hmask, statusWord_reservedBits]
    rfl
  refine ⟨?_, ?_, ?_, ?_, ?_, ?_, ?_, hcode, ?_, hzero⟩
  case refine_5 => rw [hphase]; cases s.phase <;> rfl
  all_goals simp [statusWord, getElem_flagBit]

/-- Settles O48: the line follows DONE and ERR: the acknowledge write clears both, an acceptance clears DONE, a
completion sets it, and reset clears IE too. -/
theorem interruptLineFollowsTheFlags : Obligations.InterruptLineFollowsTheFlags := by
  refine ⟨fun s => by simp [irq], fun s rest => ⟨_, step_write_status s rest 0x6, irq_eq_false rfl rfl⟩,
    fun s t h hb hbt he => ?_, fun s t h hc => ?_, fun s t h hr => ?_⟩
  · have hc : s.completing = none := by simp [State.completing, hb]
    cases hr : s.nextIsReset with
    | true => rw [step_resets h hr]; exact irq_resetCore _
    | false =>
      rcases step_begins_or_keeps h hc hr with ⟨-, -, -, v, hw, hd, ha⟩ | ⟨hbusy, -⟩
      · rw [step_accepts h hb hw hd ha]
        exact irq_eq_false rfl he
      · exact absurd (hbt.symm.trans (hbusy.trans hb)) (by decide)
  · obtain ⟨i, hi⟩ := Option.ne_none_iff_exists'.1 hc
    have hx := step_completes h hi
    obtain ⟨hie, -⟩ := exec_keeps_unwritten hx
    obtain ⟨u, rfl⟩ := exec_finishes hx
    simpa [irq] using hie
  · rw [step_resets h hr]; exact irq_resetCore _

end


section
/-! The obligations about words written out and the assembler. -/

open Sys2Proof Sys2Proof.Machine

/-- Settles O1: fifteen words, each decoded. -/
theorem wordsDecodeAsTheTableSays : Obligations.WordsDecodeAsTheTableSays := by
  unfold Obligations.WordsDecodeAsTheTableSays
  decide

end

section
/-! SUPPORT. The assembler on the two spellings of each command. -/

namespace Sys2Proof.Machine

/-- R98: the assembler sees a line in upper case only. -/
theorem parseCommand_congr {cs ds : List Char} (h : cs.map Char.toUpper = ds.map Char.toUpper) :
    parseCommand cs = parseCommand ds := by
  simp only [parseCommand, h]

/-- R98: both spellings of a command are in upper case already. -/
theorem toUpper_commandChars (i : Instr) (hi : i.WellFormed) :
    (commandChars i).map Char.toUpper = commandChars i ∧ (commandHexChars i).map Char.toUpper = commandHexChars i := by
  cases i with
  | absorb n => revert n; decide +kernel
  | _ => decide

/-- R98: both spellings of a command are read back. -/
theorem parseCommand_commandChars (i : Instr) (hi : i.WellFormed) :
    parseCommand (commandChars i) = some i ∧ parseCommand (commandHexChars i) = some i := by
  cases i with
  | absorb n => revert n; decide +kernel
  | _ => decide +kernel

end Sys2Proof.Machine
end

section
/-! The obligations about the assembler and about which command a step runs. -/

open Sys2Proof Sys2Proof.Machine

/-- Settles O4: a text is read as the spelling it is up to letter case. -/
theorem assemblerGivesEveryCommandItsWord : Obligations.AssemblerGivesEveryCommandItsWord := by
  intro i text hi htext
  obtain ⟨hupper, hupperHex⟩ := toUpper_commandChars i hi
  obtain ⟨hparse, hparseHex⟩ := parseCommand_commandChars i hi
  have h : parseCommand text = some i := by
    rcases htext with h | h
    · rw [parseCommand_congr (h.trans hupper.symm), hparse]
    · rw [parseCommand_congr (h.trans hupperHex.symm), hparseHex]
  rw [h]
  rfl

/-- Settles O5: a pending command's turn is its completion, and acceptance leaves the command pending. -/
theorem stepRunsTheDecodedCommand : Obligations.StepRunsTheDecodedCommand := by
  refine ⟨fun s hb hag => ?_, fun s rest hb hag => ?_, fun s v i rest hb hd ha => ?_, fun s w i hw => ?_⟩
  · simp [step, hag, quietTurn, engineTurn, hb]
  · simp [step, hag, turn, engineTurn, hb]
  · refine ⟨beginCommand i { s with agenda := .engine :: rest }, ?_, ?_⟩
    · exact (step_write_cmd s _ v).trans
        (congrArg _ (acceptCommand_accepts v i _ hb hd ((acceptanceError_congr rfl rfl rfl).trans ha)))
    · exact step_engine (beginCommand i s) rest rfl
  · have hplace : s.withFetchWord 32 w = { beginCommand i s with agenda := .engine :: s.agenda } := by
      simp only [State.withFetchWord, placeWord, hw]
      rfl
    rw [hplace]
    exact step_engine (beginCommand i s) s.agenda rfl

/-- Settles O6: a turn of the engine with no command pending passes. -/
theorem idleEngineChangesNothing : Obligations.IdleEngineChangesNothing := by
  refine ⟨fun s hb hag => ?_, fun s rest hb hag => ?_⟩
  · simp [step, hag, quietTurn, engineTurn, hb]
  · simp [step, hag, turn, engineTurn, hb]

end

section
/-! SUPPORT. Steps that exist: an admitted event has a next state, in which it has left the agenda. -/

namespace Sys2Proof.Machine

/-- R69: an admitted access has an offset. -/
theorem checkAccess_of_admitted {off : Int} {width : Nat} (h : (checkAccess off width).toBool = true) :
    ∃ o, checkAccess off width = .ok o := by
  cases hc : checkAccess off width with
  | ok o => exact ⟨o, rfl⟩
  | error r => rw [hc] at h; cases h

/-- R69, R70: only a refused access has no next state. -/
theorem step_exists {s : State} (h : ∀ e ∈ s.agenda, e.admitted = true) : ∃ t, step s = .next t := by
  unfold step
  rcases hag : s.agenda with _ | ⟨e, rest⟩
  · simp only [quietTurn, engineTurn]
    split
    · exact exec_next _ _
    · exact ⟨_, rfl⟩
  · have he := h e (by simp [hag])
    cases e with
    | read off width =>
      obtain ⟨o, ho⟩ := checkAccess_of_admitted he
      simp [turn, ho]
    | write off width v =>
      obtain ⟨o, ho⟩ := checkAccess_of_admitted he
      simp [turn, ho]
    | engine =>
      simp only [turn, engineTurn]
      split
      · exact exec_next _ _
      · exact ⟨_, rfl⟩
    | reset => exact ⟨_, rfl⟩

@[simp] theorem writeReg_agenda (r : Reg) (v : Word) (s : State) : (writeReg r v s).agenda = s.agenda := by
  cases r with
  | cmd => rcases acceptCommand_cases v s with ⟨e, he⟩ | ⟨i, -, -, -, he⟩ <;> simp [writeReg, he]
  | _ => simp [writeReg]

/-- R20, R78: each step takes the first event, if there is one. -/
theorem step_agenda {s t : State} (h : step s = .next t) : t.agenda = s.agenda.tail := by
  rcases step_cases h with
    ⟨-, -, -, -, hx⟩ | ⟨-, -, -, -, rfl⟩ | ⟨-, -, -, off, width, o, rest, -, -, rfl⟩ | ⟨-, -, r, v, hw, rfl⟩ |
      ⟨-, -, -, rfl⟩
  · rcases exec_cases hx with
      ⟨-, rfl⟩ | ⟨-, rfl⟩ | ⟨n, -, rfl⟩ | ⟨-, rfl⟩ | ⟨-, rfl⟩ | ⟨-, rfl⟩ | ⟨-, rfl⟩ <;> rfl
  all_goals simp

/-- R76: a step that leaves a command pending leaves its operands too. -/
theorem step_keeps_pending {s t : State} (hb : s.busy = true) (hc : s.completing = none)
    (hr : s.nextIsReset = false) (h : step s = .next t) :
    t.busy = true ∧ t.pending = s.pending ∧ t.S = s.S ∧ t.din = s.din := by
  obtain ⟨-, -, hops⟩ := busyWritesAreDropped
  obtain ⟨hS, hdin, hpend⟩ := hops s t hb hc hr h
  rcases step_begins_or_keeps h hc hr with ⟨hidle, -⟩ | ⟨hbusy, -⟩
  · exact absurd (hb.symm.trans hidle) (by decide)
  · exact ⟨hbusy.trans hb, hpend, hS, hdin⟩

/-- R221: the step that completes a command has a next state, with BUSY = 0 and DONE = 1. -/
theorem completing_finishes {s : State} {i : Instr} (hc : s.completing = some i) :
    ∃ t, step s = .next t ∧ t.busy = false ∧ t.done = true := by
  obtain ⟨-, -, hstep⟩ := step_of_completing hc
  obtain ⟨t, ht⟩ := exec_next i { s with agenda := s.agenda.tail }
  obtain ⟨u, rfl⟩ := exec_finishes ht
  exact ⟨_, hstep.trans ht, rfl, rfl⟩

end Sys2Proof.Machine
end

section
/-! The obligation that every accepted command completes. -/

open Sys2Proof Sys2Proof.Machine

/-- Settles O50, by induction on the inputs to come: each step completes the command or keeps it pending with its
operands and takes one input. -/
theorem everyAcceptedCommandCompletes : Obligations.EveryAcceptedCommandCompletes := by
  intro s hb hag
  generalize hl : s.agenda = l
  rw [hl] at hag
  revert hag
  induction l generalizing s with
  | nil =>
    intro _
    have hc : s.completing = some s.pending := by simp [State.completing, hb, hl]
    obtain ⟨t, hend⟩ := completing_finishes hc
    exact ⟨0, s, t, Nat.zero_le _, rfl, hc, rfl, rfl, hend⟩
  | cons e rest ih =>
    intro hag
    cases hc : s.completing with
    | some i =>
      obtain ⟨-, rfl, -⟩ := step_of_completing hc
      obtain ⟨t, hend⟩ := completing_finishes hc
      exact ⟨0, s, t, Nat.zero_le _, rfl, hc, rfl, rfl, hend⟩
    | none =>
      obtain ⟨⟨hne, -⟩, hrest⟩ := List.forall_mem_cons.1 hag
      have hr : s.nextIsReset = false := by cases e <;> simp_all [State.nextIsReset]
      obtain ⟨t, ht⟩ := step_exists (s := s) (by rw [hl]; exact fun e he => (hag e he).2)
      obtain ⟨hbt, hpend, hS, hdin⟩ := step_keeps_pending hb hc hr ht
      have hagt : t.agenda = rest := (step_agenda ht).trans (by rw [hl]; rfl)
      obtain ⟨k, u, v, hk, hrun, hcu, hSu, hdu, hend⟩ := ih t hbt hagt hrest
      exact ⟨k + 1, u, v, Nat.succ_le_succ hk, (core_run_succ k s t ht).trans hrun, hpend ▸ hcu,
        hSu.trans hS, hdu.trans hdin, hend⟩

end

section
/-! SUPPORT. States that differ only in what reads returned. -/

namespace Sys2Proof.Machine

/-- The state with another record of replies and draws. -/
def State.withRecord (s : State) (replies : List (Nat × Word)) (draws : Nat) : State :=
  { s with replies := replies, draws := draws }

/-- R21: states with the same architectural part and the same inputs differ in the record alone. -/
theorem eq_withRecord {s u : State} (harch : s.arch = u.arch) (hag : s.agenda = u.agenda) :
    u = s.withRecord u.replies u.draws := by
  obtain ⟨⟩ := s
  obtain ⟨⟩ := u
  simp_all [State.arch, State.withRecord]

/-- R221: a completion does not look at the record. -/
theorem exec_withRecord {i : Instr} {s t : State} (h : exec i s = .next t) (rp : List (Nat × Word)) (d : Nat) :
    exec i (s.withRecord rp d) = .next (t.withRecord rp d) := by
  cases i <;> cases h <;> rfl

/-- R220: acceptance does not look at the record. -/
theorem acceptCommand_withRecord (v : Word) (s : State) (rp : List (Nat × Word)) (d : Nat) :
    acceptCommand v (s.withRecord rp d) = (acceptCommand v s).withRecord rp d := by
  have hacc : ∀ i, acceptanceError i (s.withRecord rp d) = acceptanceError i s :=
    fun i => acceptanceError_congr rfl rfl rfl
  have hbusy : (s.withRecord rp d).busy = s.busy := rfl
  unfold acceptCommand
  simp only [hacc, hbusy]
  split
  · rfl
  · split
    · rfl
    · split <;> rfl

/-- R73: a host write does not look at the record. -/
theorem writeReg_withRecord (r : Reg) (v : Word) (s : State) (rp : List (Nat × Word)) (d : Nat) :
    writeReg r v (s.withRecord rp d) = (writeReg r v s).withRecord rp d := by
  have hbusy : (s.withRecord rp d).busy = s.busy := rfl
  cases r with
  | cmd => exact acceptCommand_withRecord v s rp d
  | status => simp only [writeReg, writeStatus_eq]; rfl
  | din w =>
    simp only [writeReg, writeDin, hbusy]
    split <;> rfl
  | state b w =>
    simp only [writeReg, writeState, hbusy]
    split <;> rfl
  | _ => rfl

/-- R72, R77: a read changes the record alone. -/
theorem hostRead_eq_withRecord (o : Nat) (s : State) :
    hostRead o s = s.withRecord (hostRead o s).replies (hostRead o s).draws := by
  unfold hostRead
  split <;> rfl

theorem hostRead_withRecord (o : Nat) (s : State) (rp : List (Nat × Word)) (d : Nat) :
    hostRead o (s.withRecord rp d) = (hostRead o s).withRecord (hostRead o (s.withRecord rp d)).replies
      (hostRead o (s.withRecord rp d)).draws := by
  rw [hostRead_eq_withRecord o s]
  exact hostRead_eq_withRecord o (s.withRecord rp d)

/-- R20, R38: a turn's outcome does not depend on the record, but for the record itself. -/
theorem turn_withRecord (e : Event) (s : State) (rp : List (Nat × Word)) (d : Nat) :
    (∀ t, turn e s = .next t → ∃ rp' d', turn e (s.withRecord rp d) = .next (t.withRecord rp' d')) ∧
      (∀ r, turn e s = .refused r → turn e (s.withRecord rp d) = .refused r) := by
  cases e with
  | read off width =>
    simp only [turn]
    cases checkAccess off width with
    | error r => exact ⟨by simp, fun _ h => h⟩
    | ok o =>
      refine ⟨fun t h => ?_, by simp⟩
      cases h
      exact ⟨_, _, congrArg _ (hostRead_withRecord o s rp d)⟩
  | write off width v =>
    simp only [turn]
    cases checkAccess off width with
    | error r => exact ⟨by simp, fun _ h => h⟩
    | ok o =>
      refine ⟨fun t h => ?_, by simp⟩
      cases h
      exact ⟨rp, d, congrArg _ (writeReg_withRecord _ v s rp d)⟩
  | engine =>
    simp only [turn, engineTurn]
    have hbusy : (s.withRecord rp d).busy = s.busy := rfl
    rw [hbusy]
    split
    · obtain ⟨u, hu⟩ := exec_next s.pending s
      rw [hu]
      refine ⟨fun t h => ?_, by simp⟩
      cases h
      exact ⟨rp, d, exec_withRecord hu rp d⟩
    · refine ⟨fun t h => ?_, by simp⟩
      cases h
      exact ⟨rp, d, rfl⟩
  | reset =>
    refine ⟨fun t h => ?_, by simp [turn]⟩
    cases h
    exact ⟨rp, d, rfl⟩

/-- R293: the turn after the last input is the engine's. -/
theorem step_eq_turn (s : State) : ∃ e, ∀ rp d,
    step (s.withRecord rp d) = turn e (({ s with agenda := s.agenda.tail } : State).withRecord rp d) := by
  rcases hag : s.agenda with _ | ⟨e, rest⟩
  · exact ⟨.engine, fun rp d => by simp [step, State.withRecord, hag, quietTurn, turn]⟩
  · exact ⟨e, fun rp d => by simp [step, State.withRecord, hag]⟩

end Sys2Proof.Machine
end

section
/-! The obligation that what reads returned never reaches the core. -/

open Sys2Proof Sys2Proof.Machine

/-- Settles O56: both states take the same turn, and a turn's outcome does not depend on the record. -/
theorem unspecifiedReadsNeverReachTheCore : Obligations.UnspecifiedReadsNeverReachTheCore := by
  intro s u harch hag
  obtain ⟨e, he⟩ := step_eq_turn s
  have hs : step s = turn e { s with agenda := s.agenda.tail } := he s.replies s.draws
  rw [eq_withRecord harch hag, he, hs]
  obtain ⟨hnext, hrefused⟩ := turn_withRecord e { s with agenda := s.agenda.tail } u.replies u.draws
  refine ⟨fun t h => ?_, hrefused⟩
  obtain ⟨rp, d, ht⟩ := hnext t h
  exact ⟨_, ht, rfl, rfl⟩

end


section
/-! SUPPORT. One turn of the host, by the instruction at its program counter. -/

namespace Sys2Proof.Machine

/-! What a turn brings to the core. -/

/-- R20: an event's answer is the core's next state. -/
theorem turn_of_afterEvent {y z : System} {host : HostAgent} {e : Event} (h : y.afterEvent host e = .next z) :
    turn e y.core = .next z.core := by
  unfold System.afterEvent at h
  split at h
  · next t ht => cases h; exact ht
  · cases h

/-- R99: a branch leaves the core alone. -/
theorem branch_core {y z : System} {name : String} {taken : Word → Bool} {target : Label}
    (h : y.branch name taken target = .next z) : z.core = y.core := by
  unfold System.branch at h
  split at h
  · cases h
  · split at h
    · split at h
      · cases h; rfl
      · cases h
    · cases h; rfl

/-- R20: a turn with an event to take is one step. -/
theorem step_eq_of_turn {s t : State} {e : Event} (h : turn e s = .next t) :
    step { s with agenda := e :: s.agenda } = .next t := h

/-! The instructions of a wait and of the driver's check. -/

/-- R99: the position that a branch goes to is the first that holds the label. -/
theorem findIdx?_label {code : List HostInstr} {l : Label} {q : Nat} (hq : code[q]? = some (.label l))
    (hfirst : ∀ j < q, code[j]? ≠ some (.label l)) : code.findIdx? (fun h => h == .label l) = some q := by
  obtain ⟨hlt, hget⟩ := List.getElem?_eq_some_iff.1 hq
  refine List.findIdx?_eq_some_iff_getElem.2 ⟨hlt, by simp [hget], fun j hj => ?_⟩
  have := hfirst j hj
  rw [List.getElem?_eq_getElem (by omega)] at this
  simpa using this

/-- R99: the host at another place of its script. -/
def System.goto (y : System) (pc : Nat) : System := { y with host := { y.host with pc := pc } }

/-- R99: the host after `rd` of STATUS, one place on. -/
def System.readStatus (y : System) (name : String) : System :=
  ⟨⟨y.host.code, y.host.pc + 1, (name, statusWord y.core) :: y.host.vars⟩, hostRead 0x00C y.core⟩

/-- R99: a label is passed. -/
theorem hostTurn_label {y : System} {l : Label} (h : y.host.code[y.host.pc]? = some (.label l)) :
    y.hostTurn = .next (y.goto (y.host.pc + 1)) := by
  simp only [System.hostTurn, h, System.goto]

/-- R42, R99: a read of STATUS gives its word a name. -/
theorem hostTurn_rd_status {y : System} {name : String} (h : y.host.code[y.host.pc]? = some (.rd 0x00C name)) :
    y.hostTurn = .next (y.readStatus name) := by
  have hstatus : regAt 0x00C = .status := rfl
  have hacc : turn (.read ((0x00C : Nat) : Int) 4) y.core = .next (hostRead 0x00C y.core) := rfl
  simp only [System.hostTurn, h, hacc, hostRead_replies, hstatus]
  simp [Reg.openWhileBusy, readReg, System.readStatus]

/-- R99: a branch on the name just read, to a label the script holds. -/
theorem branch_eq {y : System} {name : String} {v : Word} {vars : List (String × Word)} {target : Label} {q : Nat}
    (taken : Word → Bool) (hv : y.host.vars = (name, v) :: vars)
    (hq : y.host.code.findIdx? (fun h => h == .label target) = some q) :
    y.branch name taken target = .next (y.goto (if taken v then q else y.host.pc + 1)) := by
  simp only [System.branch, System.goto, hv, List.lookup_cons_self, hq]
  split <;> rfl

theorem hostTurn_bnz {y : System} {name : String} {v mask : Word} {vars : List (String × Word)} {target : Label}
    {q : Nat} (h : y.host.code[y.host.pc]? = some (.bnz name mask target)) (hv : y.host.vars = (name, v) :: vars)
    (hq : y.host.code.findIdx? (fun h => h == .label target) = some q) {b : Bool} (hb : (v &&& mask != 0) = b) :
    y.hostTurn = .next (y.goto (if b then q else y.host.pc + 1)) := by
  subst hb
  simp only [System.hostTurn, h]
  exact branch_eq _ hv hq

theorem hostTurn_bz {y : System} {name : String} {v mask : Word} {vars : List (String × Word)} {target : Label}
    {q : Nat} (h : y.host.code[y.host.pc]? = some (.bz name mask target)) (hv : y.host.vars = (name, v) :: vars)
    (hq : y.host.code.findIdx? (fun h => h == .label target) = some q) {b : Bool} (hb : (v &&& mask == 0) = b) :
    y.hostTurn = .next (y.goto (if b then q else y.host.pc + 1)) := by
  subst hb
  simp only [System.hostTurn, h]
  exact branch_eq _ hv hq

/-- R99: turns of the host compose. -/
theorem hostTurns_succ {n : Nat} {y z : System} (h : y.hostTurn = .next z) :
    y.hostTurns (n + 1) = z.hostTurns n := by
  simp only [System.hostTurns, h]

/-- R72: a read changes no register. -/
theorem hostRead_arch (off : Nat) (s : State) : (hostRead off s).arch = s.arch := by
  simp [State.arch]

/-! The masks of the branches. -/

/-- R42: a mask of one bit selects that bit. -/
theorem and_twoPow_ne_zero (v : Word) {k : Nat} (hk : k < 32) :
    (v &&& BitVec.twoPow 32 k != 0) = v.getLsbD k := by
  have hbit : BitVec.twoPow 32 k ≠ 0#32 := by
    intro h
    have := congrArg (fun x => x.getLsbD k) h
    simp [hk] at this
  rw [BitVec.and_twoPow]
  cases v.getLsbD k <;> simp [hbit]

/-- R42: the masks of `wait` and of the driver's check, on the STATUS word. -/
theorem statusWord_masks (s : State) :
    (statusWord s &&& 0x1 != 0) = s.busy ∧ (statusWord s &&& 0x004 != 0) = s.err ∧
      (statusWord s &&& 0x080 != 0) = s.raw ∧ (statusWord s &&& 0x800 == 0) = !s.tagValid := by
  obtain ⟨hbusy, -, herr, -, -, -, hraw, -, hvalid, -⟩ := statusWordBitByBit s
  refine ⟨(and_twoPow_ne_zero _ (k := 0) (by decide)).trans hbusy,
    (and_twoPow_ne_zero _ (k := 2) (by decide)).trans herr, (and_twoPow_ne_zero _ (k := 7) (by decide)).trans hraw, ?_⟩
  have := (and_twoPow_ne_zero (statusWord s) (k := 11) (by decide)).trans hvalid
  rw [← this, bne, Bool.not_not]
  rfl

end Sys2Proof.Machine
end

section
/-! The obligations about the host beside the core. -/

open Sys2Proof Sys2Proof.Machine

/-- Settles O52: an access, a completion and a reset are each one turn of the core, and a branch or a label none. -/
theorem systemTurnIsAtMostOneStep : Obligations.SystemTurnIsAtMostOneStep := by
  intro a y z h
  cases a with
  | engine => exact step_eq_of_turn (turn_of_afterEvent h)
  | reset => exact step_eq_of_turn (turn_of_afterEvent h)
  | host =>
    simp only [System.turn, System.hostTurn] at h
    simp only [System.event]
    cases hcode : y.host.code[y.host.pc]? with
    | none => rw [hcode] at h; cases h; rfl
    | some i =>
      rw [hcode] at h
      cases i with
      | wr off v => exact step_eq_of_turn (turn_of_afterEvent h)
      | rd off name =>
        simp only at h
        split at h
        · next t ht => cases h; exact step_eq_of_turn ht
        · cases h
      | label l => cases h; rfl
      | bnz name mask target => exact branch_core h
      | bz name mask target => exact branch_core h

/-- Settles O51: the label, the read of STATUS and the branch on its bit 0. -/
theorem waitLoopsWhileBusy : Obligations.WaitLoopsWhileBusy := by
  intro y k p hpc hcode hfirst
  subst hpc
  have hlabel := hcode 0 (by decide)
  have hread := hcode 1 (by decide)
  have hbranch := hcode 2 (by decide)
  obtain ⟨hmask, -⟩ := statusWord_masks y.core
  have h1 := hostTurn_label hlabel
  have h2 := hostTurn_rd_status (y := y.goto (y.host.pc + 1)) hread
  have h3 := hostTurn_bnz (y := (y.goto (y.host.pc + 1)).readStatus "st") hbranch rfl (findIdx?_label hlabel hfirst)
    hmask
  exact ⟨_, _, _, h1, h2, h3, hostRead_arch _ _, rfl⟩

/-- Settles O53: the read of STATUS, and then its three branches in turn, each of which goes to the label or on. -/
theorem driverChecksTheStatus : Obligations.DriverChecksTheStatus := by
  intro y k p q hpc hcode hq hfirst
  subst hpc
  have hfail := findIdx?_label hq hfirst
  obtain ⟨-, hmErr, hmRaw, hmValid⟩ := statusWord_masks y.core
  have hread : y.hostTurn = .next (y.readStatus "st") := hostTurn_rd_status (hcode 0 (by decide))
  have herr := hostTurn_bnz (y := y.readStatus "st") (hcode 1 (by decide)) rfl hfail hmErr
  have hvalid := hostTurn_bz (y := (y.readStatus "st").goto (y.host.pc + 2)) (hcode 2 (by decide)) rfl hfail hmValid
  have hraw := hostTurn_bnz (y := (y.readStatus "st").goto (y.host.pc + 3)) (hcode 3 (by decide)) rfl hfail hmRaw
  have harch := hostRead_arch 0x00C y.core
  cases he : y.core.err with
  | true =>
    rw [he] at herr
    exact ⟨2, _, by decide, (hostTurns_succ hread).trans (hostTurns_succ herr), harch, by simp [System.goto]⟩
  | false =>
    rw [he] at herr
    cases hv : y.core.tagValid with
    | false =>
      rw [hv] at hvalid
      exact ⟨3, _, by decide, (hostTurns_succ hread).trans ((hostTurns_succ herr).trans (hostTurns_succ hvalid)),
        harch, by simp [System.goto]⟩
    | true =>
      rw [hv] at hvalid
      refine ⟨4, _, by decide, (hostTurns_succ hread).trans ((hostTurns_succ herr).trans
        ((hostTurns_succ hvalid).trans (hostTurns_succ hraw))), harch, ?_⟩
      cases y.core.raw <;> simp [System.goto]

end


section
/-! SUPPORT. Runs of the core over a list of events, whatever inputs come after them. -/

namespace Sys2Proof.Machine

/-- R78: the events lead from one state to the other, whatever inputs come after them. -/
def Runs (evs : List Event) (s t : State) : Prop :=
  ∀ rest, Sys2Proof.core.run evs.length { s with agenda := evs ++ rest } = .next { t with agenda := rest }

theorem runs_nil (s : State) : Runs [] s s := fun _ => rfl

theorem runs_singleton {e : Event} {s t : State}
    (h : ∀ rest, step { s with agenda := e :: rest } = .next { t with agenda := rest }) : Runs [e] s t :=
  fun rest => core_run_succ 0 _ _ (h rest)

theorem Runs.append {evs evs' : List Event} {s t u : State} (h : Runs evs s t) (h' : Runs evs' t u) :
    Runs (evs ++ evs') s u := by
  intro rest
  rw [List.length_append, List.append_assoc, core_run_append _ _ _ _ (h (evs' ++ rest))]
  exact h' rest

theorem Runs.cons {e : Event} {evs : List Event} {s t u : State}
    (h : ∀ rest, step { s with agenda := e :: rest } = .next { t with agenda := rest }) (h' : Runs evs t u) :
    Runs (e :: evs) s u := (runs_singleton h).append h'

/-! DIN writes. -/

/-- R73: DIN after the given words have been written to it. -/
def loadedDin (f : Fin 8 → Word) (ws : List (Fin 8)) (d : Chunk) : Chunk :=
  ws.foldl (fun d w => setWord d w.val (f w)) d

theorem loadedDin_cons (f : Fin 8 → Word) (w : Fin 8) (ws : List (Fin 8)) (d : Chunk) :
    loadedDin f (w :: ws) d = loadedDin f ws (setWord d w.val (f w)) := by
  rw [loadedDin, List.foldl_cons, loadedDin]

/-- R62, R73: each byte of DIN after the writes. -/
theorem getElem_loadedDin (f : Fin 8 → Word) (ws : List (Fin 8)) (d : Chunk) (j : Nat) (h : j < 32) :
    (loadedDin f ws d)[j] =
      if (⟨j / 4, by omega⟩ : Fin 8) ∈ ws then wordByte (f ⟨j / 4, by omega⟩) (j % 4) else d[j] := by
  induction ws generalizing d with
  | nil => simp [loadedDin]
  | cons w ws ih =>
    rw [loadedDin_cons, ih, getElem_setWord]
    by_cases hw : (⟨j / 4, by omega⟩ : Fin 8) = w
    · subst hw; simp
    · have hne : ¬ j / 4 = w.val := fun h => hw (Fin.ext h)
      simp only [List.mem_cons, hw, hne, false_or, if_false]

/-- R73: with BUSY = 0 the writes of DIN words change DIN and nothing else. -/
theorem runs_din_writes (f : Fin 8 → Word) (ws : List (Fin 8)) {s : State} (hb : s.busy = false) :
    Runs (ws.map fun w => .write ((0x020 + 4 * w.val : Nat) : Int) 4 (f w)) s
      { s with din := loadedDin f ws s.din } := by
  induction ws generalizing s with
  | nil => exact runs_nil s
  | cons w ws ih =>
    have hrest := ih (s := { s with din := setWord s.din w.val (f w) }) hb
    rw [loadedDin_cons]
    exact Runs.cons (t := { s with din := setWord s.din w.val (f w) })
      (fun rest => step_write_din_idle s rest (f w) w hb) hrest

/-! Reads. -/

/-- R62 to R65: with BUSY = 0 a read of a named register returns its word. -/
theorem runs_read_idle {s : State} {r : Reg} {off : Nat} (hb : s.busy = false) (h : r.offset = some off) :
    Runs [.read off 4] s (s.withRecord ((off, readReg r s) :: s.replies) s.draws) :=
  runs_singleton fun rest => step_read_idle s rest hb h

/-- R42, R77: a read of STATUS returns its word, whether or not a command is pending. -/
theorem runs_read_status (s : State) :
    Runs [.read 0x00C 4] s (s.withRecord ((0x00C, statusWord s) :: s.replies) s.draws) := by
  cases hb : s.busy with
  | false => exact runs_read_idle hb (r := .status) rfl
  | true => exact runs_singleton fun rest => step_read_busy s rest (off := 0x00C) hb rfl (by decide)

/-- R99: polls of STATUS add replies at its offset and do nothing else. -/
theorem runs_polls (n : Nat) (s : State) :
    ∃ pre, Runs (List.replicate n (.read 0x00C 4)) s (s.withRecord (pre ++ s.replies) s.draws) ∧
      ∀ r ∈ pre, r.1 = 0x00C := by
  induction n generalizing s with
  | zero => exact ⟨[], runs_nil s, by simp⟩
  | succ n ih =>
    obtain ⟨pre, hruns, hpre⟩ := ih (s.withRecord ((0x00C, statusWord s) :: s.replies) s.draws)
    refine ⟨pre ++ [(0x00C, statusWord s)], ?_, ?_⟩
    · rw [List.append_assoc]
      exact (runs_read_status s).append hruns
    · simpa [or_imp, forall_and] using hpre

/-! A command and its wait. -/

/-- R221: a completion does not look at the inputs to come. -/
theorem exec_withAgenda {i : Instr} {s t : State} (h : exec i s = .next t) (rest : List Event) :
    exec i { s with agenda := rest } = .next { t with agenda := rest } := by
  cases i <;> cases h <;> rfl

/-- R99, R220, R221: the command has been accepted and completed, and only STATUS has been read. -/
def CompletedBy (i : Instr) (s t : State) : Prop :=
  ∃ u pre, exec i (beginCommand i s) = .next u ∧ t = u.withRecord (pre ++ s.replies) s.draws ∧
    ∀ r ∈ pre, r.1 = 0x00C

/-- R99, R220, R221: the events of a command that the state accepts and of its `wait`. -/
theorem runs_command {i : Instr} {s : State} (hb : s.busy = false) (hi : i.WellFormed)
    (ha : acceptanceError i s = none) (polls : Nat) :
    ∃ t, Runs (.write 0x008 4 (encode i) :: (List.replicate polls (.read 0x00C 4) ++ [.engine, .read 0x00C 4])) s t ∧
      CompletedBy i s t := by
  obtain ⟨u, hu⟩ := exec_next i (beginCommand i s)
  obtain ⟨pre, hpolls, hpre⟩ := runs_polls polls (beginCommand i s)
  have hengine : Runs [.engine] ((beginCommand i s).withRecord (pre ++ s.replies) s.draws)
      (u.withRecord (pre ++ s.replies) s.draws) :=
    runs_singleton fun rest => (step_engine _ rest rfl).trans (exec_withAgenda (exec_withRecord hu _ _) rest)
  have hlast := runs_read_status (u.withRecord (pre ++ s.replies) s.draws)
  refine ⟨_, Runs.cons (fun rest => step_write_encode_accepts rest hb hi ha)
    (hpolls.append (hengine.append hlast)), u, (0x00C, statusWord u) :: pre, hu, rfl, ?_⟩
  simpa using hpre

end Sys2Proof.Machine
end

section
/-! The obligation about loading DIN. -/

open Sys2Proof Sys2Proof.Machine

/-- Settles O45: eight DIN writes, each byte of DIN from its word. -/
theorem loadingDinPutsEachByteInPlace : Obligations.LoadingDinPutsEachByteInPlace := by
  intro s bytes hb hlen
  have hruns := runs_din_writes (fun w => getWord (chunkOf bytes 0) w.val (by omega)) (List.finRange 8) hb []
  have hdin : loadedDin (fun w => getWord (chunkOf bytes 0) w.val (by omega)) (List.finRange 8) s.din =
      Vector.ofFn fun j : Fin 32 => bytes.getD j.val 0 := by
    ext1 j hj
    rw [getElem_loadedDin, if_pos (List.mem_finRange _), wordByte_getWord _ _ _ _ (Nat.mod_lt _ (by decide))]
    simp [chunkOf, Nat.div_add_mod]
  rw [hdin, List.append_nil, List.length_map, List.length_finRange] at hruns
  simpa [lineEvents, expandLine] using hruns

end


section
/-! SUPPORT. Runs of the core over a script's events, for every number of polls, and the driver's script part by
part. -/

namespace Sys2Proof.Machine

/-- R100: whatever the polls of each `wait`, the script's events lead from s to a state with the property. -/
def Leads (ls : List ScriptLine) (s : State) (Q : State → Prop) : Prop :=
  ∀ (polls : Nat → Nat) (k : Nat), ∃ t, Runs (scriptEvents polls k ls) s t ∧ Q t

theorem scriptEvents_append (polls : Nat → Nat) (k : Nat) (ls ls' : List ScriptLine) :
    scriptEvents polls k (ls ++ ls') = scriptEvents polls k ls ++ scriptEvents polls (k + ls.length) ls' := by
  induction ls generalizing k with
  | nil => rfl
  | cons l ls ih =>
    rw [List.cons_append, scriptEvents, scriptEvents, ih, List.append_assoc, List.length_cons]
    congr 3
    omega

theorem leads_nil {s : State} {Q : State → Prop} (h : Q s) : Leads [] s Q := fun _ _ => ⟨s, runs_nil s, h⟩

/-- R99: scripts compose. -/
theorem Leads.append {ls ls' : List ScriptLine} {s : State} {P Q : State → Prop} (h : Leads ls s P)
    (h' : ∀ t, P t → Leads ls' t Q) : Leads (ls ++ ls') s Q := by
  intro polls k
  obtain ⟨t, hruns, ht⟩ := h polls k
  obtain ⟨u, hruns', hu⟩ := h' t ht polls (k + ls.length)
  exact ⟨u, by rw [scriptEvents_append]; exact hruns.append hruns', hu⟩

theorem Leads.mono {ls : List ScriptLine} {s : State} {P Q : State → Prop} (h : Leads ls s P)
    (hPQ : ∀ t, P t → Q t) : Leads ls s Q := by
  intro polls k
  obtain ⟨t, hruns, ht⟩ := h polls k
  exact ⟨t, hruns, hPQ t ht⟩

/-- R99: a command that the state accepts, and its `wait`. -/
theorem leads_command {i : Instr} {s : State} (hb : s.busy = false) (hi : i.WellFormed)
    (ha : acceptanceError i s = none) : Leads [.cmd i, .wait] s (CompletedBy i s) := by
  intro polls k
  obtain ⟨t, hruns, ht⟩ := runs_command hb hi ha (polls (k + 1))
  exact ⟨t, by simpa [scriptEvents, lineEvents, expandLine] using hruns, ht⟩

/-! The bytes of DIN (R284 steps 3 and 4). -/

/-- R100: the events of word writes, one for each word that is to be written. -/
theorem scriptEvents_writes (polls : Nat → Nat) (k : Nat) (p : Fin 8 → Prop) [DecidablePred p] (off : Fin 8 → Nat)
    (f : Fin 8 → Word) (ws : List (Fin 8)) :
    scriptEvents polls k
        (ws.filterMap fun w => if p w then some (.prim (.wr (off w) (f w))) else none) =
      (ws.filter p).map fun w => .write (off w) 4 (f w) := by
  induction ws generalizing k with
  | nil => rfl
  | cons w ws ih =>
    by_cases hw : p w
    · simp [hw, scriptEvents, lineEvents, expandLine, ih]
    · simp [hw, ih]

/-- R284 steps 3 and 4: DIN begins with the given bytes. -/
def HoldsBytes (bytes : List Byte) (d : Chunk) : Prop := d.toList.take bytes.length = bytes

/-- R284 steps 3 and 4: a word that the driver writes to DIN. -/
def driverWord (ch : DriverChoice) (bytes : List Byte) (w : Fin 8) : Word :=
  getWord (chunkOf (bytes ++ ch.fill) 0) w.val (by omega)

/-- R284 steps 3 and 4: the words that the driver writes to DIN. -/
def driverWords (ch : DriverChoice) (bytes : List Byte) : List (Fin 8) :=
  (List.finRange 8).filter fun w => w.val < (bytes.length + 3) / 4 + ch.extraWords

/-- R284 steps 3 and 4: every byte of the input lies in a word that is written. -/
theorem holdsBytes_loadedDin (ch : DriverChoice) (bytes : List Byte) (hlen : bytes.length ≤ 32) (d : Chunk) :
    HoldsBytes bytes (loadedDin (driverWord ch bytes) (driverWords ch bytes) d) := by
  refine List.ext_getElem (by simpa using hlen) fun j _ hj => ?_
  have hmem : (⟨j / 4, by omega⟩ : Fin 8) ∈ driverWords ch bytes := by
    simp only [driverWords, List.mem_filter, List.mem_finRange, true_and, decide_eq_true_eq]
    omega
  rw [List.getElem_take, Vector.getElem_toList, getElem_loadedDin _ _ _ j (by omega), if_pos hmem, driverWord,
    wordByte_getWord _ _ _ _ (Nat.mod_lt _ (by decide))]
  simp [chunkOf, Nat.div_add_mod, List.getElem?_append_left hj, hj]

/-- R284 steps 3 and 4: the driver's DIN writes leave the bytes at the beginning of DIN. -/
theorem leads_load (ch : DriverChoice) (bytes : List Byte) (hlen : bytes.length ≤ 32) {s : State}
    (hb : s.busy = false) :
    Leads (loadLines ch bytes) s fun t => ∃ d, t = { s with din := d } ∧ HoldsBytes bytes d := by
  intro polls k
  refine ⟨{ s with din := loadedDin (driverWord ch bytes) (driverWords ch bytes) s.din }, ?_, _, rfl,
    holdsBytes_loadedDin ch bytes hlen s.din⟩
  rw [loadLines, scriptEvents_writes]
  exact runs_din_writes _ _ hb

/-! The state a driver keeps. -/

/-- R284: no command is pending, and IE and the error record are as the driver found them. -/
structure Driving (s t : State) : Prop where
  busy : t.busy = false
  err : t.err = s.err
  errcode : t.errcode = s.errcode
  ie : t.ie = s.ie

/-- R221: a command other than CLEAR, once completed, leaves IE and the error record. -/
theorem Driving.completed {s t u : State} {i : Instr} (ht : Driving s t) (hi : i ≠ .clear)
    (hu : CompletedBy i t u) : Driving s u := by
  obtain ⟨v, pre, hx, rfl, -⟩ := hu
  obtain ⟨herr, hcode⟩ := exec_error hx
  obtain ⟨hie, -⟩ := exec_keeps_unwritten hx
  have hbusy : v.busy = false := by
    obtain ⟨w, rfl⟩ := exec_finishes hx
    rfl
  have hne : (i == .clear) = false := by simpa using hi
  rw [hne] at herr
  rw [if_neg hi] at hcode
  exact ⟨hbusy, herr.trans ht.err, hcode.trans ht.errcode, hie.trans ht.ie⟩

/-- R284 step 2: INIT begins a construction. -/
theorem leads_init {s : State} (hb : s.busy = false) :
    Leads [.cmd .init, .wait] s fun t => Driving s t ∧ Absorbed [] t := by
  refine (leads_command hb rfl rfl).mono fun t ht => ⟨Driving.completed ⟨hb, rfl, rfl, rfl⟩ (by decide) ht, ?_⟩
  obtain ⟨u, pre, hx, rfl, -⟩ := ht
  exact (absorbed_nil_of_execInit hx).congr rfl rfl rfl rfl rfl

/-- R220: an open construction of whole chunks accepts a further chunk that fits. -/
theorem acceptanceError_of_absorbed {b : List Byte} {n : BitVec 6} {s : State} (hs : Absorbed b s)
    (hwhole : b.length % 32 = 0) (hfits : 8 * (b.length + n.toNat) ≤ 2 ^ 64 - 1) :
    acceptanceError (.absorb n) s = none := by
  have hphase : s.phase = .initialized ∨ s.phase = .absorbing := by
    rw [hs.phase]; split <;> simp
  have htail : s.tail = false := by rw [hs.tail]; simpa using hwhole
  have hbits := hs.bits
  rw [acceptanceError_absorb_inSequence n ⟨hphase, htail⟩, if_neg (by omega)]

/-- R284 step 3: bytes that stand at the beginning of DIN are absorbed. -/
theorem leads_absorb {s t : State} {b bytes : List Byte} (ht : Driving s t) (habs : Absorbed b t)
    (hd : HoldsBytes bytes t.din) (hwhole : b.length % 32 = 0) (hlo : 1 ≤ bytes.length) (hhi : bytes.length ≤ 32)
    (hfits : 8 * (b.length + bytes.length) ≤ 2 ^ 64 - 1) :
    Leads [.cmd (.absorb (BitVec.ofNat 6 bytes.length)), .wait] t
      fun u => Driving s u ∧ Absorbed (b ++ bytes) u := by
  have hn : (BitVec.ofNat 6 bytes.length).toNat = bytes.length := by
    rw [BitVec.toNat_ofNat, Nat.mod_eq_of_lt (by omega)]
  have hwf : (Instr.absorb (BitVec.ofNat 6 bytes.length)).WellFormed := (absorb_wellFormed_iff _).2 (by omega)
  have hacc := acceptanceError_of_absorbed (n := BitVec.ofNat 6 bytes.length) habs hwhole (by omega)
  refine (leads_command ht.busy hwf hacc).mono fun u hu => ⟨ht.completed (by simp) hu, ?_⟩
  obtain ⟨v, pre, hx, rfl, -⟩ := hu
  have hv := absorbed_append_of_execAbsorb (s := beginCommand _ t) (habs.congr rfl rfl rfl rfl rfl) hwf
    ((acceptanceError_congr rfl rfl rfl).trans hacc) hx
  rw [hn, beginCommand_din, show t.din.toList.take bytes.length = bytes from hd] at hv
  exact hv.congr rfl rfl rfl rfl rfl

/-- R284 steps 3 and 4: the script's lines for one chunk. -/
def chunkLines (ch : DriverChoice) (b : List Byte) (i : Nat) : List ScriptLine :=
  loadLines ch (inputChunk b i) ++ [.cmd (.absorb (BitVec.ofNat 6 (inputChunk b i).length)), .wait]

/-- R284 steps 3 and 4: one chunk of the input is loaded and absorbed. -/
theorem leads_chunk (ch : DriverChoice) {b : List Byte} (hlen : b.length ≤ 2 ^ 61 - 1) {i : Nat}
    (hi : i < chunkCount b) {s t : State} (ht : Driving s t) (habs : Absorbed (b.take (32 * i)) t) :
    Leads (chunkLines ch b i) t fun u => Driving s u ∧ Absorbed (b.take (32 * (i + 1))) u := by
  have hib : 32 * i < b.length := by unfold chunkCount at hi; omega
  have hchunk : (inputChunk b i).length = min 32 (b.length - 32 * i) := by simp [inputChunk]
  have htake : (b.take (32 * i)).length = 32 * i := by simp; omega
  have hjoin : b.take (32 * (i + 1)) = b.take (32 * i) ++ inputChunk b i := by
    rw [inputChunk, Nat.mul_add, ← List.take_add]
  rw [hjoin, chunkLines]
  refine (leads_load ch _ (by omega) ht.busy).append ?_
  rintro _ ⟨d, rfl, hd⟩
  exact leads_absorb ⟨ht.busy, ht.err, ht.errcode, ht.ie⟩ (habs.congr rfl rfl rfl rfl rfl) hd (by omega) (by omega)
    (by omega) (by omega)

/-- R284 steps 3 and 4: the first n chunks of the input are absorbed. -/
theorem leads_chunks (ch : DriverChoice) {b : List Byte} (hlen : b.length ≤ 2 ^ 61 - 1) {n : Nat}
    (hn : n ≤ chunkCount b) {s t : State} (ht : Driving s t) (habs : Absorbed [] t) :
    Leads ((List.range n).flatMap (chunkLines ch b)) t
      fun u => Driving s u ∧ Absorbed (b.take (32 * n)) u := by
  induction n with
  | zero => exact leads_nil ⟨ht, habs⟩
  | succ n ih =>
    rw [List.range_succ, List.flatMap_append, List.flatMap_singleton]
    exact (ih (by omega)).append fun u ⟨hu, habsu⟩ => leads_chunk ch hlen (by omega) hu habsu

/-- R284 step 5: the construction has ended in the checksum of the bytes. -/
structure Finalized (b : List Byte) (s : State) : Prop where
  tag : s.tag = checksum b
  tagValid : s.tagValid = true
  raw : s.raw = false
  done : s.done = true

/-- R284 step 5: FINALIZE after the last chunk. -/
theorem leads_finalize {b : List Byte} {s t : State} (ht : Driving s t) (habs : Absorbed b t) :
    Leads [.cmd .finalize, .wait] t fun u => Driving s u ∧ Finalized b u := by
  have hacc : acceptanceError .finalize t = none := by
    rw [acceptanceError_finalize, habs.phase]
    split <;> simp
  refine (leads_command ht.busy rfl hacc).mono fun u hu => ⟨ht.completed (by decide) hu, ?_⟩
  obtain ⟨v, pre, hx, rfl, -⟩ := hu
  have htag := tag_of_execFinalize (s := beginCommand .finalize t) (habs.congr rfl rfl rfl rfl rfl) hx
  cases hx
  exact ⟨htag, rfl, habs.raw, rfl⟩

/-! The check, the tag and the end (R284 steps 6 to 8). -/

/-- R284 steps 6 and 7: what the host has read, newest first, after the STATUS of the check and the four words of the
tag. -/
def checkedReplies (s : State) : List (Nat × Word) :=
  [(0x04C, readReg (.tag 3) s), (0x048, readReg (.tag 2) s), (0x044, readReg (.tag 1) s),
    (0x040, readReg (.tag 0) s), (0x00C, statusWord s)] ++ s.replies

/-- R284 steps 6 and 7: the check of STATUS and the reads of the tag. -/
theorem leads_check {s : State} (hb : s.busy = false) :
    Leads (checkLines ++ [.rdtag "t"]) s fun t => t = s.withRecord (checkedReplies s) s.draws := by
  intro polls k
  refine ⟨_, ?_, rfl⟩
  have hstatus := runs_read_status s
  have htag : ∀ (w : Fin 4) (rp : List (Nat × Word)),
      Runs [.read ((0x040 + 4 * w.val : Nat) : Int) 4] (s.withRecord rp s.draws)
        (s.withRecord ((0x040 + 4 * w.val, readReg (.tag w) s) :: rp) s.draws) :=
    fun w rp => runs_read_idle (s := s.withRecord rp s.draws) hb (r := .tag w) rfl
  exact hstatus.append ((htag 0 _).append ((htag 1 _).append ((htag 2 _).append (htag 3 _))))

/-- R284 step 8: the optional CLEAR, and the label at the end. -/
theorem leads_end (ch : DriverChoice) {s : State} (hb : s.busy = false) :
    Leads ((if ch.erase then [.cmd .clear, .wait] else []) ++ [.prim (.label (.named "fail"))]) s
      fun t => if ch.erase then CompletedBy .clear s t else t = s := by
  refine Leads.append (P := fun t => if ch.erase then CompletedBy .clear s t else t = s) ?_ fun t ht polls k =>
    ⟨t, runs_nil t, ht⟩
  cases ch.erase with
  | true => exact leads_command hb rfl rfl
  | false => exact leads_nil rfl

/-- R62: the tag's bytes are those of its four words. -/
theorem tag_bytes (s : State) (j : Nat) (h : j < 16) :
    s.tag[j] = ([readReg (.tag 0) s, readReg (.tag 1) s, readReg (.tag 2) s, readReg (.tag 3) s].getD (j / 4)
      0).extractLsb' (8 * (j % 4)) 8 := by
  have hword : [readReg (.tag 0) s, readReg (.tag 1) s, readReg (.tag 2) s, readReg (.tag 3) s].getD (j / 4) 0 =
      getWord s.tag (j / 4) (by omega) := by
    obtain hj | hj | hj | hj : j / 4 = 0 ∨ j / 4 = 1 ∨ j / 4 = 2 ∨ j / 4 = 3 := by omega
    all_goals simp only [hj]; rfl
  have hbyte := wordByte_getWord s.tag (j / 4) (j % 4) (by omega) (by omega)
  rw [hword]
  simp only [Nat.div_add_mod] at hbyte
  exact hbyte.symm

/-- R284 steps 2 to 5: the lines of the driver's script up to the end of the construction. -/
def constructionLines (ch : DriverChoice) (b : List Byte) : List ScriptLine :=
  [.cmd .init, .wait] ++ (List.range (chunkCount b)).flatMap (chunkLines ch b) ++ [.cmd .finalize, .wait]

/-- R284 steps 2 to 5: the whole construction, from an idle core. -/
theorem leads_construction (ch : DriverChoice) {b : List Byte} (hlen : b.length ≤ 2 ^ 61 - 1) {s : State}
    (hb : s.busy = false) : Leads (constructionLines ch b) s fun t => Driving s t ∧ Finalized b t := by
  have hall : b.take (32 * chunkCount b) = b := List.take_of_length_le (by unfold chunkCount; omega)
  unfold constructionLines
  refine ((leads_init hb).append fun t ⟨ht, habs⟩ => leads_chunks ch hlen le_rfl ht habs).append ?_
  rintro t ⟨ht, habs⟩
  rw [hall] at habs
  exact leads_finalize ht habs

/-- R284: where the driver's script ends: at what the check and the reads of the tag left of a finished construction,
or at CLEAR's completion from there. -/
def DriverDone (ch : DriverChoice) (b : List Byte) (s t : State) : Prop :=
  ∃ u, Driving s u ∧ Finalized b u ∧
    if ch.erase then CompletedBy .clear (u.withRecord (checkedReplies u) u.draws) t
    else t = u.withRecord (checkedReplies u) u.draws

/-- R284 steps 2 to 8: the driver's whole script, from an idle core. -/
theorem leads_driverScript (ch : DriverChoice) {b : List Byte} (hlen : b.length ≤ 2 ^ 61 - 1) {s : State}
    (hb : s.busy = false) : Leads (driverScript ch b) s (DriverDone ch b s) := by
  have hparts : driverScript ch b = constructionLines ch b ++ ((checkLines ++ [.rdtag "t"]) ++
      ((if ch.erase then [.cmd .clear, .wait] else []) ++ [.prim (.label (.named "fail"))])) := by
    simp only [driverScript, constructionLines, List.append_assoc]
    rfl
  rw [hparts]
  refine (leads_construction ch hlen hb).append ?_
  rintro u ⟨hu, hfin⟩
  refine (leads_check hu.busy).append ?_
  rintro _ rfl
  exact (leads_end ch (s := u.withRecord (checkedReplies u) u.draws) hu.busy).mono fun t ht => ⟨u, hu, hfin, ht⟩

/-- R284 steps 6 and 7: the STATUS word and the tag's words among the replies, after which only STATUS was read. -/
theorem replies_of_finalized {b : List Byte} {s u : State} (hu : Driving s u) (hfin : Finalized b u)
    {pre : List (Nat × Word)} (hpre : ∀ r ∈ pre, r.1 = 0x00C) :
    ∃ (later earlier : List (Nat × Word)) (w0 w1 w2 w3 x : Word),
      pre ++ checkedReplies u =
        later ++ [(0x04C, w3), (0x048, w2), (0x044, w1), (0x040, w0), (0x00C, x)] ++ earlier ∧
      (∀ r ∈ later, r.1 = 0x00C) ∧ x.getLsbD 2 = s.err ∧ x.getLsbD 11 = true ∧ x.getLsbD 7 = false ∧
      ∀ (j : Nat) (h : j < 16),
        (checksum b)[j] = ([w0, w1, w2, w3].getD (j / 4) 0).extractLsb' (8 * (j % 4)) 8 := by
  obtain ⟨-, -, herr, -, -, -, hraw, -, hvalid, -⟩ := statusWordBitByBit u
  exact ⟨pre, u.replies, _, _, _, _, _, (List.append_assoc _ _ _).symm, hpre, herr.trans hu.err,
    hvalid.trans hfin.tagValid, hraw.trans hfin.raw, fun j h => by simpa only [← hfin.tag] using tag_bytes u j h⟩

end Sys2Proof.Machine
end

section
/-! The obligation about the driver. -/

open Sys2Proof Sys2Proof.Machine

/-- Settles O59: the script's end by `leads_driverScript`, and what was read by `replies_of_finalized`. -/
theorem driverComputesTheChecksum : Obligations.DriverComputesTheChecksum := by
  intro s polls ch b hb hlen
  obtain ⟨t, hruns, u, hu, hfin, hend⟩ := leads_driverScript ch hlen hb polls 0
  have hrun := hruns []
  rw [List.append_nil] at hrun
  refine ⟨_, hrun, rfl, ?_⟩
  cases he : ch.erase with
  | false =>
    obtain rfl : t = u.withRecord (checkedReplies u) u.draws := by simpa [he] using hend
    exact ⟨hu.busy, hfin.done, hu.ie, fun _ => ⟨hfin.tag, hfin.tagValid, hfin.raw, hu.err, hu.errcode⟩,
      fun h => absurd h (by decide), replies_of_finalized hu hfin (pre := []) (by simp)⟩
  | true =>
    have hclear : CompletedBy .clear (u.withRecord (checkedReplies u) u.draws) t := by simpa [he] using hend
    obtain ⟨v, pre, hx, rfl, hpre⟩ := hclear
    obtain ⟨w, hw, hstatus, -⟩ := clearCompletes (beginCommand .clear (u.withRecord (checkedReplies u) u.draws))
    cases hw.symm.trans hx
    cases hx
    exact ⟨rfl, rfl, hu.ie, fun h => absurd h (by decide), fun _ => ⟨hstatus, rfl, rfl, rfl, rfl⟩,
      replies_of_finalized hu hfin hpre⟩

end
